-- ==== Sys2Proof/Word.lean ====
section
/-!
DEFINITION. The word types of the machine. Every value of the spec is an unsigned number of a stated width
(00_scope.md R8); a register index and a sprite height are 4-bit fields, an immediate 8 bits, an address literal 12 bits
(30_encoding.md R71, R72).
-/

namespace Sys2Proof

/-- A 4-bit field: a sprite height `n`, an opcode class, a key code. -/
abbrev Nibble := BitVec 4
/-- A register index `x` or `y`, 0..15 (30_encoding.md R73). -/
abbrev RegIx := BitVec 4
/-- An 8-bit register value, immediate or memory byte. -/
abbrev Byte := BitVec 8
/-- A 12-bit address or literal `nnn`. -/
abbrev Lit12 := BitVec 12
/-- A 16-bit value that holds an address: `I`, `PC`, a stack entry (20_memory.md R50). -/
abbrev Addr := BitVec 16
/-- A 16-bit instruction word (30_encoding.md R70). -/
abbrev Word := BitVec 16

/-- The index of `VF`, which is the flag output too (10_state.md R21). -/
abbrev vf : RegIx := 0xF#4

end Sys2Proof
end

