-- ==== Sys2Proof/Syntax.lean ====
section
/-!
DEFINITION. The 35 instructions of 30_encoding.md R75, one constructor per row of spec/opcode_table.json. A field has the
width the format gives it (R71), so a term cannot hold an operand its word has no bits for.
-/

namespace Sys2Proof

/-- An instruction, with the operand fields its format names (30_encoding.md R71, R75). -/
inductive Instr where
  /-- 0NNN, `SYS addr` (R100) -/
  | sys (nnn : Lit12)
  /-- 00E0, `CLS` (R150) -/
  | cls
  /-- 00EE, `RET` (R101) -/
  | ret
  /-- 1NNN, `JP addr` (R102) -/
  | jp (nnn : Lit12)
  /-- 2NNN, `CALL addr` (R103) -/
  | call (nnn : Lit12)
  /-- 3XNN, `SE Vx, byte` (R104) -/
  | seImm (x : RegIx) (nn : Byte)
  /-- 4XNN, `SNE Vx, byte` (R105) -/
  | sneImm (x : RegIx) (nn : Byte)
  /-- 5XY0, `SE Vx, Vy` (R106) -/
  | seReg (x y : RegIx)
  /-- 6XNN, `LD Vx, byte` (R120) -/
  | ldImm (x : RegIx) (nn : Byte)
  /-- 7XNN, `ADD Vx, byte` (R121) -/
  | addImm (x : RegIx) (nn : Byte)
  /-- 8XY0, `LD Vx, Vy` (R122) -/
  | ldReg (x y : RegIx)
  /-- 8XY1, `OR Vx, Vy` (R123) -/
  | orReg (x y : RegIx)
  /-- 8XY2, `AND Vx, Vy` (R124) -/
  | andReg (x y : RegIx)
  /-- 8XY3, `XOR Vx, Vy` (R125) -/
  | xorReg (x y : RegIx)
  /-- 8XY4, `ADD Vx, Vy` (R126) -/
  | addReg (x y : RegIx)
  /-- 8XY5, `SUB Vx, Vy` (R127) -/
  | sub (x y : RegIx)
  /-- 8XY6, `SHR Vx, Vy` (R128) -/
  | shr (x y : RegIx)
  /-- 8XY7, `SUBN Vx, Vy` (R129) -/
  | subn (x y : RegIx)
  /-- 8XYE, `SHL Vx, Vy` (R130) -/
  | shl (x y : RegIx)
  /-- 9XY0, `SNE Vx, Vy` (R107) -/
  | sneReg (x y : RegIx)
  /-- ANNN, `LD I, addr` (R141) -/
  | ldI (nnn : Lit12)
  /-- BNNN, `JP V0, addr` (R142) -/
  | jpV0 (nnn : Lit12)
  /-- CXNN, `RND Vx, byte` (R140) -/
  | rnd (x : RegIx) (nn : Byte)
  /-- DXYN, `DRW Vx, Vy, nibble` (R151) -/
  | drw (x y : RegIx) (n : Nibble)
  /-- EX9E, `SKP Vx` (R160) -/
  | skp (x : RegIx)
  /-- EXA1, `SKNP Vx` (R161) -/
  | sknp (x : RegIx)
  /-- FX07, `LD Vx, DT` (R163) -/
  | ldVxDt (x : RegIx)
  /-- FX0A, `LD Vx, K` (R162) -/
  | ldVxK (x : RegIx)
  /-- FX15, `LD DT, Vx` (R164) -/
  | ldDtVx (x : RegIx)
  /-- FX18, `LD ST, Vx` (R165) -/
  | ldStVx (x : RegIx)
  /-- FX1E, `ADD I, Vx` (R143) -/
  | addI (x : RegIx)
  /-- FX29, `LD F, Vx` (R173) -/
  | ldF (x : RegIx)
  /-- FX33, `LD B, Vx` (R170) -/
  | ldB (x : RegIx)
  /-- FX55, `LD [I], Vx` (R171) -/
  | ldMemVx (x : RegIx)
  /-- FX65, `LD Vx, [I]` (R172) -/
  | ldVxMem (x : RegIx)
deriving DecidableEq, Repr

end Sys2Proof
end

