-- ==== Sys2Proof/Decode.lean ====
section
/-!
DEFINITION. The decoder of 30_encoding.md: total on every word and every byte list, rejecting by name; and after it the
encoder, written from the same table (R75).
-/

namespace Sys2Proof

/-- Why a decode answers no instruction. -/
inductive DecodeError where
  /-- `InvalidOpcode(w)`: a word that 30_encoding.md R75 does not assign (R82). -/
  | invalidOpcode (w : Word)
  /-- Fewer than the two bytes of a word are there (30_encoding.md R70). -/
  | truncated
deriving DecidableEq, Repr

/-! ## Fields (30_encoding.md R71) -/

/-- `class := w[15:12]`. -/
def fieldClass (w : Word) : Nibble := w.extractLsb' 12 4
/-- `x := w[11:8]`. -/
def fieldX (w : Word) : RegIx := w.extractLsb' 8 4
/-- `y := w[7:4]`. -/
def fieldY (w : Word) : RegIx := w.extractLsb' 4 4
/-- `n := w[3:0]`. -/
def fieldN (w : Word) : Nibble := w.extractLsb' 0 4
/-- `nn := w[7:0]`. -/
def fieldNN (w : Word) : Byte := w.extractLsb' 0 8
/-- `nnn := w[11:0]`. -/
def fieldNNN (w : Word) : Lit12 := w.extractLsb' 0 12

/-! ## Decoder -/

/-- Class 0, in the order of 30_encoding.md R76. -/
def decodeClass0 (w : Word) : Instr :=
  if w = 0x00E0#16 then .cls
  else if w = 0x00EE#16 then .ret
  else .sys (fieldNNN w)

/-- Class 8, by `n` (30_encoding.md R78). -/
def decodeClass8 (w : Word) : Except DecodeError Instr :=
  match (fieldN w).toNat with
  | 0x0 => .ok (.ldReg (fieldX w) (fieldY w))
  | 0x1 => .ok (.orReg (fieldX w) (fieldY w))
  | 0x2 => .ok (.andReg (fieldX w) (fieldY w))
  | 0x3 => .ok (.xorReg (fieldX w) (fieldY w))
  | 0x4 => .ok (.addReg (fieldX w) (fieldY w))
  | 0x5 => .ok (.sub (fieldX w) (fieldY w))
  | 0x6 => .ok (.shr (fieldX w) (fieldY w))
  | 0x7 => .ok (.subn (fieldX w) (fieldY w))
  | 0xE => .ok (.shl (fieldX w) (fieldY w))
  | _ => .error (.invalidOpcode w)

/-- Class E, by `nn` (30_encoding.md R79). -/
def decodeClassE (w : Word) : Except DecodeError Instr :=
  match (fieldNN w).toNat with
  | 0x9E => .ok (.skp (fieldX w))
  | 0xA1 => .ok (.sknp (fieldX w))
  | _ => .error (.invalidOpcode w)

/-- Class F, by `nn` (30_encoding.md R80). -/
def decodeClassF (w : Word) : Except DecodeError Instr :=
  match (fieldNN w).toNat with
  | 0x07 => .ok (.ldVxDt (fieldX w))
  | 0x0A => .ok (.ldVxK (fieldX w))
  | 0x15 => .ok (.ldDtVx (fieldX w))
  | 0x18 => .ok (.ldStVx (fieldX w))
  | 0x1E => .ok (.addI (fieldX w))
  | 0x29 => .ok (.ldF (fieldX w))
  | 0x33 => .ok (.ldB (fieldX w))
  | 0x55 => .ok (.ldMemVx (fieldX w))
  | 0x65 => .ok (.ldVxMem (fieldX w))
  | _ => .error (.invalidOpcode w)

/-- `decode(instruction: u16) → Instruction | DecodeError` (30_encoding.md R74 to R80). -/
def decode (w : Word) : Except DecodeError Instr :=
  match (fieldClass w).toNat with
  | 0x0 => .ok (decodeClass0 w)
  | 0x1 => .ok (.jp (fieldNNN w))
  | 0x2 => .ok (.call (fieldNNN w))
  | 0x3 => .ok (.seImm (fieldX w) (fieldNN w))
  | 0x4 => .ok (.sneImm (fieldX w) (fieldNN w))
  | 0x5 => if fieldN w = 0#4 then .ok (.seReg (fieldX w) (fieldY w)) else .error (.invalidOpcode w)
  | 0x6 => .ok (.ldImm (fieldX w) (fieldNN w))
  | 0x7 => .ok (.addImm (fieldX w) (fieldNN w))
  | 0x8 => decodeClass8 w
  | 0x9 => if fieldN w = 0#4 then .ok (.sneReg (fieldX w) (fieldY w)) else .error (.invalidOpcode w)
  | 0xA => .ok (.ldI (fieldNNN w))
  | 0xB => .ok (.jpV0 (fieldNNN w))
  | 0xC => .ok (.rnd (fieldX w) (fieldNN w))
  | 0xD => .ok (.drw (fieldX w) (fieldY w) (fieldN w))
  | 0xE => decodeClassE w
  | _ => decodeClassF w

/-- Big-endian: the byte at the lower address is bits 15-8 (20_memory.md R55). -/
def wordOfBytes (hi lo : Byte) : Word := hi ++ lo
/-- The byte of a word stored at the lower address (20_memory.md R55). -/
def highByte (w : Word) : Byte := w.extractLsb' 8 8
/-- The byte of a word stored at the higher address (20_memory.md R55). -/
def lowByte (w : Word) : Byte := w.extractLsb' 0 8

/-- The instruction at the head of a byte list, with the bytes after it (30_encoding.md R70). -/
def decodeBytes : List Byte → Except DecodeError (Instr × List Byte)
  | hi :: lo :: rest =>
    match decode (wordOfBytes hi lo) with
    | .ok i => .ok (i, rest)
    | .error e => .error e
  | _ => .error .truncated

/-! ## Encoder -/

/-- Format `NNN` (30_encoding.md R71). -/
def wordNNN (c : Nibble) (nnn : Lit12) : Word := c ++ nnn
/-- Formats `XNN` and `X` (30_encoding.md R71). -/
def wordXNN (c : Nibble) (x : RegIx) (nn : Byte) : Word := c ++ x ++ nn
/-- Formats `XY` and `XYN` (30_encoding.md R71). -/
def wordXYN (c : Nibble) (x y : RegIx) (n : Nibble) : Word := c ++ x ++ y ++ n

/-- The word of an instruction (30_encoding.md R75); for SYS only where it is well formed (R76). -/
def encode : Instr → Word
  | .sys nnn => wordNNN 0x0#4 nnn
  | .cls => 0x00E0#16
  | .ret => 0x00EE#16
  | .jp nnn => wordNNN 0x1#4 nnn
  | .call nnn => wordNNN 0x2#4 nnn
  | .seImm x nn => wordXNN 0x3#4 x nn
  | .sneImm x nn => wordXNN 0x4#4 x nn
  | .seReg x y => wordXYN 0x5#4 x y 0x0#4
  | .ldImm x nn => wordXNN 0x6#4 x nn
  | .addImm x nn => wordXNN 0x7#4 x nn
  | .ldReg x y => wordXYN 0x8#4 x y 0x0#4
  | .orReg x y => wordXYN 0x8#4 x y 0x1#4
  | .andReg x y => wordXYN 0x8#4 x y 0x2#4
  | .xorReg x y => wordXYN 0x8#4 x y 0x3#4
  | .addReg x y => wordXYN 0x8#4 x y 0x4#4
  | .sub x y => wordXYN 0x8#4 x y 0x5#4
  | .shr x y => wordXYN 0x8#4 x y 0x6#4
  | .subn x y => wordXYN 0x8#4 x y 0x7#4
  | .shl x y => wordXYN 0x8#4 x y 0xE#4
  | .sneReg x y => wordXYN 0x9#4 x y 0x0#4
  | .ldI nnn => wordNNN 0xA#4 nnn
  | .jpV0 nnn => wordNNN 0xB#4 nnn
  | .rnd x nn => wordXNN 0xC#4 x nn
  | .drw x y n => wordXYN 0xD#4 x y n
  | .skp x => wordXNN 0xE#4 x 0x9E#8
  | .sknp x => wordXNN 0xE#4 x 0xA1#8
  | .ldVxDt x => wordXNN 0xF#4 x 0x07#8
  | .ldVxK x => wordXNN 0xF#4 x 0x0A#8
  | .ldDtVx x => wordXNN 0xF#4 x 0x15#8
  | .ldStVx x => wordXNN 0xF#4 x 0x18#8
  | .addI x => wordXNN 0xF#4 x 0x1E#8
  | .ldF x => wordXNN 0xF#4 x 0x29#8
  | .ldB x => wordXNN 0xF#4 x 0x33#8
  | .ldMemVx x => wordXNN 0xF#4 x 0x55#8
  | .ldVxMem x => wordXNN 0xF#4 x 0x65#8

/-- The two bytes of a table word in the order the hardware stores them: `w` numbered as spec/opcode_table.json numbers its
bits (one 16-bit word, bit 0 the least significant), the bits above `nbits` zero. -/
def tableWordBytes (nbits w : Nat) : List Byte :=
  [highByte (BitVec.ofNat 16 (w % 2 ^ nbits)), lowByte (BitVec.ofNat 16 (w % 2 ^ nbits))]

/-- The instruction the decoder reads from a table word. -/
def decodeTableWord (nbits w : Nat) : Option Instr :=
  match decodeBytes (tableWordBytes nbits w) with
  | .ok (i, _) => some i
  | .error _ => none

end Sys2Proof
end

