-- ==== Sys2Proof/Config.lean ====
section
/-!
DEFINITION. What is fixed for the machine (00_scope.md R7), and what its environment answers (00_scope.md R6).
The parameters on which the spec itself made a doubtful choice stand in Machine/Params.lean.
-/

namespace Sys2Proof

namespace Config

/-- `MEM_SIZE`: addresses 0x000..0xFFF exist (00_scope.md R7). -/
def memSize : Nat := 4096
/-- `FONT_BASE` (00_scope.md R7). -/
def fontBase : Nat := 0x050
/-- `GLYPH_BYTES` (00_scope.md R7). -/
def glyphBytes : Nat := 5
/-- `PROGRAM_BASE`, the reset vector too (20_memory.md R51). -/
def programBase : Nat := 0x200
/-- `MAX_ROM_LEN` = `MEM_SIZE` - `PROGRAM_BASE` (00_scope.md R7). -/
def maxRomLen : Nat := 3584
/-- `STACK_CAPACITY` (00_scope.md R7). -/
def stackCapacity : Nat := 16
/-- `FB_WIDTH` (00_scope.md R7). -/
def fbWidth : Nat := 64
/-- `FB_HEIGHT` (00_scope.md R7). -/
def fbHeight : Nat := 32

/-- `INSTR_RATE`, the open parameter of 70_reset_and_hazards.md R248; no rule depends on it (log entry 22). -/
opaque instrRateHz : Nat

end Config

/-- `SHIFT_SOURCE`: which register 8XY6 and 8XYE shift (92_eei_decisions.md D1). -/
inductive ShiftSource where
  | vx
  | vy
deriving DecidableEq, Repr

/-- `RESET_MEMORY_POLICY`: what the RESET transition does to memory (92_eei_decisions.md D11). -/
inductive ResetMemoryPolicy where
  | keepAll
  | zeroOutsideFontAndProgram
deriving DecidableEq, Repr

/-- The five signals a poll may deliver, any subset of them (60_exceptions.md R214). -/
structure Signals where
  pause          : Bool
  toggleStepMode : Bool
  advanceStep    : Bool
  reset          : Bool
  quit           : Bool
deriving DecidableEq, Repr, Inhabited

/-- What `poll` answers at cycle step 5: a set of signals, or a failure (60_exceptions.md R207, R214). -/
inductive Poll where
  | signals (g : Signals)
  | failed
deriving DecidableEq, Repr, Inhabited

/-- The places of a cycle that request a present: the executing instruction (44_display.md R152), the step disarm
(60_exceptions.md R219), the signals PAUSE, TOGGLE_STEP_MODE (R216, R217) and RESET (70_reset_and_hazards.md R243).
Each emits at most one present in a cycle. -/
inductive PresentSite where
  | instruction
  | stepDisarm
  | pause
  | toggleStepMode
  | reset
deriving DecidableEq, Repr

/-- Everything the environment answers within one cycle (00_scope.md R6): plain data, which any state may hold in any
value, so a statement about every state is a statement about every draw. -/
structure CycleInput where
  /-- the draw `tick` of 70_reset_and_hazards.md R247 -/
  tick       : Bool
  /-- the byte of the randomness source, at most one a cycle (43_random_index.md R140) -/
  random     : Byte
  /-- bit `k` is the answer `is_key_down(k)` (60_exceptions.md R211) -/
  keysDown   : BitVec 16
  /-- the answer `next_pending_key()` (60_exceptions.md R211) -/
  pendingKey : Option Nibble
  /-- the answer `poll()` (60_exceptions.md R214) -/
  poll       : Poll
  /-- the presents of this cycle whose `draw` fails (60_exceptions.md R207, 92_eei_decisions.md D28) -/
  failing    : List PresentSite
deriving DecidableEq, Repr, Inhabited

/-- A cycle in which the environment does nothing: no tick, no key, no signal, no failure, a zero random byte. -/
def CycleInput.quiet : CycleInput :=
  { tick := false, random := 0#8, keysDown := 0#16, pendingKey := none,
    poll := .signals { pause := false, toggleStepMode := false, advanceStep := false, reset := false, quit := false },
    failing := [] }

/-- FREE VALUE (log entry 1): the environment's draws of the n-th cycle where the state lays none down. It has no body,
so nothing can be proved of what the environment answers there (93_implementation_defined.md U1, U3, U5, U6). -/
opaque Config.freeInput : Nat → CycleInput

end Sys2Proof
end

