-- ==== Sys2Proof/Machine/Params.lean ====
section
/-!
DEFINITION. The parameters of 00_scope.md R7 on whose value the spec made its own choice, each at the value this hardware
takes. A meaning reads the parameter, so that another value gives the other behaviour the spec describes.
-/

namespace Sys2Proof.Machine.Params

/-- `SHIFT_SOURCE = Vx` (92_eei_decisions.md D1; log entry 8). -/
def shiftSource : ShiftSource := .vx

/-- `MEM_TRANSFER_INCREMENTS_I = false` (46_memory_transfer.md R171, R172; log entry 9). -/
def memTransferIncrementsI : Bool := false

/-- `PC_FAULT_LIMIT = 0xFFE` (20_memory.md R57, 92_eei_decisions.md D6; log entry 10). -/
def pcFaultLimit : Nat := 0xFFE

/-- `RESET_MEMORY_POLICY = KeepAll` (70_reset_and_hazards.md R243, 92_eei_decisions.md D11; log entry 11). -/
def resetMemoryPolicy : ResetMemoryPolicy := .keepAll

/-- `TICK_WHILE_GATED = false` (60_exceptions.md R209, 92_eei_decisions.md D26; log entry 12). -/
def tickWhileGated : Bool := false

/-- The glyphs 0 to 3 of `FONT` (20_memory.md R52; PRESUMED by the spec from general knowledge, log entry 7). -/
def font03 : List Byte :=
  [0xF0, 0x90, 0x90, 0x90, 0xF0] ++ [0x20, 0x60, 0x20, 0x20, 0x70] ++
  [0xF0, 0x10, 0xF0, 0x80, 0xF0] ++ [0xF0, 0x10, 0xF0, 0x10, 0xF0]
/-- The glyphs 4 to 7 of `FONT` (20_memory.md R52; log entry 7). -/
def font47 : List Byte :=
  [0x90, 0x90, 0xF0, 0x10, 0x10] ++ [0xF0, 0x80, 0xF0, 0x10, 0xF0] ++
  [0xF0, 0x80, 0xF0, 0x90, 0xF0] ++ [0xF0, 0x10, 0x20, 0x40, 0x40]
/-- The glyphs 8 to B of `FONT` (20_memory.md R52; log entry 7). -/
def font8B : List Byte :=
  [0xF0, 0x90, 0xF0, 0x90, 0xF0] ++ [0xF0, 0x90, 0xF0, 0x10, 0xF0] ++
  [0xF0, 0x90, 0xF0, 0x90, 0x90] ++ [0xE0, 0x90, 0xE0, 0x90, 0xE0]
/-- The glyphs C to F of `FONT` (20_memory.md R52; log entry 7). -/
def fontCF : List Byte :=
  [0xF0, 0x80, 0x80, 0x80, 0xF0] ++ [0xE0, 0x90, 0x90, 0x90, 0xE0] ++
  [0xF0, 0x80, 0xF0, 0x80, 0xF0] ++ [0xF0, 0x80, 0xF0, 0x80, 0x80]

/-- `FONT`: glyph `k` is the five bytes from `5k` (20_memory.md R52; log entry 7). -/
def font : List Byte := font03 ++ font47 ++ font8B ++ fontCF

end Sys2Proof.Machine.Params
end

