-- ==== Sys2Proof/Machine/State.lean ====
section
/-!
DEFINITION. The state of the core (10_state.md), the fault record it holds (60_exceptions.md R201), the reasons a step has no
next state, and the state after reset.
-/

namespace Sys2Proof.Machine

/-- The faults of 60_exceptions.md R201 with the information each records. Codes 1 to 6 and H1 are set into `State.fault` by
the shared operation `State.raise`; L1 and L2 come from `construct`, which then has no state. -/
inductive FaultRecord where
  /-- Code 1: the cycle, when decode answers no instruction; the word and its address. -/
  | invalidOpcode (w : Word) (fetchAddr : Addr)
  /-- Code 2: CALL with 16 entries on the stack. -/
  | stackOverflow (w : Word) (fetchAddr : Addr)
  /-- Code 3: RET with an empty stack. -/
  | stackUnderflow (w : Word) (fetchAddr : Addr)
  /-- Code 4: SKP and SKNP with `V[x]` above 0xF; the value too. -/
  | invalidRegister (w : Word) (fetchAddr : Addr) (value : Byte)
  /-- Code 5: the fetch at or above `PC_FAULT_LIMIT`. -/
  | programCounterOutOfBounds (pc : Addr)
  /-- Code 6: DRW, LD_B, LD_MEM_VX, LD_VX_MEM with a byte address of 4096 or more; the lowest such address, a natural number
  because `I + k` never wraps (20_memory.md R54). -/
  | memoryOutOfBounds (w : Word) (fetchAddr : Addr) (address : Nat)
  /-- Code L1: a ROM longer than 3584 bytes; its length. -/
  | romTooLarge (length : Nat)
  /-- Code L2: the ROM cannot be read. -/
  | romUnreadable
  /-- Code H1: the backend's initialization, `poll` or `draw` fails (R207). -/
  | backendError
deriving DecidableEq, Repr

/-- Why the machine has no next state. Both are the spec's own ends of a run (60_exceptions.md R223). -/
inductive Fault where
  /-- Raised by `step` from a state whose fault record is set (60_exceptions.md R202: the machine takes no further step), and by
  `construct` on a load error (R206) or a failed backend initialization (R207). Safe: the hardware stops there too. -/
  | stopped (f : FaultRecord)
  /-- Raised by `step` from a state with `quit` set: no cycle runs (60_exceptions.md R220). It is the NORMAL end of a run
  (R223), not an error. Safe: the hardware stops there too. -/
  | quit
deriving DecidableEq, Repr

/-- Why an instruction has no meaning. No arm of `exec` and no meaning answers one: every instruction is modelled. -/
inductive Refusal where
  /-- Raised by nobody: reserved for an instruction of the opcode table that has no meaning yet. Safe. -/
  | notModelled (mnemonic : String)
deriving DecidableEq, Repr

/-- Memory `M` as (address, byte) pairs in the canonical form `Memory.wf`: addresses strictly rising and below 4096, no entry
equal to the byte an unlisted address reads as, which is its content at construction (20_memory.md R51, R52). -/
abbrev Memory := List Host.Cell

/-- The framebuffer: 32 rows of 64 one-bit cells; `FB[x, y]` is bit `x` of row `y` (10_state.md R27; log entry 6). -/
abbrev Framebuffer := Vector (BitVec 64) 32

/-- The state of the core. -/
structure State where
  /-- `V0`..`VF` (10_state.md R20) -/
  v            : Vector Byte 16
  /-- `I` (10_state.md R23) -/
  i            : Addr
  /-- `PC` (10_state.md R24) -/
  pc           : Addr
  /-- `S`, its last element the top (10_state.md R25, 00_scope.md R9) -/
  stack        : List Addr
  /-- `M` (10_state.md R26) -/
  mem          : Memory
  /-- `FB` (10_state.md R27) -/
  fb           : Framebuffer
  /-- `DT` (10_state.md R28) -/
  dt           : Byte
  /-- `ST` (10_state.md R28) -/
  st           : Byte
  /-- `paused` (10_state.md R30) -/
  paused       : Bool
  /-- `step_mode` (10_state.md R30) -/
  stepMode     : Bool
  /-- `step_armed` (10_state.md R30) -/
  stepArmed    : Bool
  /-- `quit` (10_state.md R30) -/
  quit         : Bool
  /-- `debug_enabled`, fixed at launch (10_state.md R30) -/
  debugEnabled : Bool
  /-- `F`, the fault record (10_state.md R33) -/
  fault        : Option FaultRecord
  /-- `|rom|`, fixed at launch; only the reset policy `ZeroOutsideFontAndProgram` reads it (70_reset_and_hazards.md R243) -/
  romLen       : Nat
  /-- the output events `Present(FB)` so far, newest first (00_scope.md R10; the model's own, log entry 19) -/
  presents     : List Framebuffer
  /-- the environment's draws of the coming cycles, as far as laid down (the model's own, log entry 1) -/
  inputs       : List CycleInput
  /-- how many cycles have completed; selects the free draws past the end of `inputs` (the model's own, log entry 1) -/
  cycle        : Nat
deriving DecidableEq, Repr

/-- The machine after construction with an empty ROM and the default debug flag (10_state.md R34, 70_reset_and_hazards.md R240,
R241; log entry 14). `inputs` lays down one quiet cycle (DESIGN CHOICE, log entry 2). -/
def State.reset : State :=
  { v := Vector.replicate 16 0#8, i := 0#16, pc := 0x200#16, stack := [], mem := [],
    fb := Vector.replicate 32 0#64, dt := 0#8, st := 0#8,
    paused := false, stepMode := false, stepArmed := false, quit := false, debugEnabled := false,
    fault := none, romLen := 0, presents := [], inputs := [CycleInput.quiet], cycle := 0 }

end Sys2Proof.Machine
end

