-- ==== Sys2Proof/Machine/Ops.lean ====
section
/-!
DEFINITION. The named operations over memory, registers, the stack, the environment's draws and the present events, and fault
entry: one shared operation for every fault. The meanings of the instructions are written over these.
-/

namespace Sys2Proof.Machine

/-- What a step, and the meaning of an instruction, answers. -/
abbrev Result := Host.Outcome State Fault Refusal

/-! ## Memory (20_memory.md) -/

/-- What an unlisted address reads as: its content at construction with an empty ROM, the font at 0x050..0x09F and zero
elsewhere (20_memory.md R51, R52; log entry 21). -/
def initialByte (a : Nat) : Byte :=
  if a < Config.fontBase then 0#8 else (Params.font[a - Config.fontBase]?).getD 0#8

/-- `M[addr]` (20_memory.md R54). Total: every rule checks the range before it reads (60_exceptions.md R203). -/
def Memory.read : Memory → Nat → Byte
  | [], a => initialByte a
  | (k, b) :: rest, a => if k = a then b else Memory.read rest a

/-- `M[addr] <- v` on the list, keeping the canonical form: writing what an unlisted address reads as removes the entry. -/
def Memory.insert : Memory → Nat → Byte → Memory
  | [], a, v => if v = initialByte a then [] else [(a, v)]
  | (k, b) :: rest, a, v =>
    if a < k then (if v = initialByte a then (k, b) :: rest else (a, v) :: (k, b) :: rest)
    else if a = k then (if v = initialByte a then rest else (a, v) :: rest)
    else (k, b) :: Memory.insert rest a v

/-- `M[addr] <- v` (20_memory.md R54). An address of 4096 or more has no byte: nothing is written there, and no rule gets that
far, since each checks the range first (60_exceptions.md R203). -/
def Memory.write (m : Memory) (a : Nat) (v : Byte) : Memory :=
  if a < Config.memSize then m.insert a v else m

/-- The bytes written at `base`, `base + 1`, .. in ascending order (20_memory.md R58). -/
def Memory.writeBytes (m : Memory) (base : Nat) : List Byte → Memory
  | [] => m
  | b :: bs => Memory.writeBytes (m.write base b) (base + 1) bs

/-- The canonical form from address `lo` up. -/
def Memory.wfFrom : Nat → Memory → Bool
  | _, [] => true
  | lo, (k, b) :: rest =>
    decide (lo ≤ k) && decide (k < Config.memSize) && b != initialByte k && Memory.wfFrom (k + 1) rest

/-- The canonical form: addresses strictly rising and below 4096, no entry equal to what an unlisted address reads as. -/
def Memory.wf (m : Memory) : Bool := Memory.wfFrom 0 m

/-- `MemRead(addr, 1)` with its own check: the byte, or none where it raises `MemoryOutOfBounds` (20_memory.md R54). -/
def Memory.read? (m : Memory) (a : Nat) : Option Byte :=
  if a < Config.memSize then some (m.read a) else none

/-- The lowest address of 4096 or more among `base .. base + count - 1`, if there is one (60_exceptions.md R201, code 6). -/
def outOfRange (base count : Nat) : Option Nat :=
  if count = 0 ∨ base + count ≤ Config.memSize then none else some (max base Config.memSize)

/-! ## Registers, timers, stack -/

/-- `V[x]` (00_scope.md R9). -/
def State.reg (s : State) (x : RegIx) : Byte := s.v[x.toNat]'x.isLt

/-- `V[x] <- b` (00_scope.md R9). -/
def State.setReg (s : State) (x : RegIx) (b : Byte) : State := { s with v := s.v.set x.toNat b x.isLt }

/-- `I <- a`. -/
def State.setI (s : State) (a : Addr) : State := { s with i := a }
/-- `PC <- a`. -/
def State.setPc (s : State) (a : Addr) : State := { s with pc := a }
/-- `M` replaced. -/
def State.setMem (s : State) (m : Memory) : State := { s with mem := m }
/-- `FB` replaced. -/
def State.setFb (s : State) (f : Framebuffer) : State := { s with fb := f }
/-- `DT <- b`. -/
def State.setDt (s : State) (b : Byte) : State := { s with dt := b }
/-- `ST <- b`. -/
def State.setSt (s : State) (b : Byte) : State := { s with st := b }
/-- `S` replaced. -/
def State.setStack (s : State) (l : List Addr) : State := { s with stack := l }

/-- `push(S, a)` (00_scope.md R9). -/
def State.push (s : State) (a : Addr) : State := s.setStack (s.stack ++ [a])

/-- `PC <- PC + 2` where the condition holds: a taken skip (41_control_flow.md R108). -/
def State.skipIf (s : State) (c : Bool) : State := if c then s.setPc (s.pc + 2#16) else s

/-- `for k in 0 .. n-1: V[k] <- MemRead(base + k, 1)`, ascending (46_memory_transfer.md R172). -/
def State.loadRegs (s : State) (base n : Nat) : State :=
  (List.range n).foldl (fun t k => t.setReg (BitVec.ofNat 4 k) (s.mem.read (base + k))) s

/-- The values of `V0 .. V(n-1)` (46_memory_transfer.md R171). -/
def State.firstRegs (s : State) (n : Nat) : List Byte := (List.range n).map (fun k => s.reg (BitVec.ofNat 4 k))

/-! ## The environment's draws (00_scope.md R6, R10) -/

/-- The draws of the current cycle: those laid down, or past their end the free value (log entry 1). -/
def State.input (s : State) : CycleInput := s.inputs.headD (Config.freeInput s.cycle)

/-- The answer `is_key_down(k)` for `k ≤ 0xF` (60_exceptions.md R211). -/
def State.keyDown (s : State) (k : Byte) : Bool := s.input.keysDown.getLsbD k.toNat

/-- A completed cycle uses its draws up (log entry 20). -/
def State.nextInput (s : State) : State := { s with inputs := s.inputs.tail, cycle := s.cycle + 1 }

/-! ## Faults and presents -/

/-- The address the executing instruction was fetched from: `PC` holds it plus 2 (00_scope.md R11). -/
def State.fetchAddr (s : State) : Addr := s.pc - 2#16

/-- FAULT ENTRY (60_exceptions.md R202): the fault record is set and nothing else changes. Who calls it writes nothing before
(R203), and the cycle ends there (`State.unlessFaulted`). -/
def State.raise (s : State) (f : FaultRecord) : State := { s with fault := some f }

/-- What follows in a cycle happens only where no fault ended it (60_exceptions.md R202). There is no return from a fault (R204):
nothing clears the record. -/
def State.unlessFaulted (s : State) (f : State → State) : State := if s.fault.isSome then s else f s

/-- `emit Present(FB)` (44_display.md R152), one call of the backend's `draw`; where that `draw` fails, the run ends with
`BackendError` (60_exceptions.md R207, 92_eei_decisions.md D28; log entry 15). -/
def State.present (s : State) (site : PresentSite) : State :=
  if site ∈ s.input.failing then { s with presents := s.fb :: s.presents, fault := some .backendError }
  else { s with presents := s.fb :: s.presents }

/-- An instruction's range check, made before its first write (60_exceptions.md R203): `MemoryOutOfBounds` with the lowest bad
address where one of the `count` bytes from `base` lies at or above 4096 (20_memory.md R54), else `t`. -/
def State.rangeChecked (s : State) (i : Instr) (base count : Nat) (t : State) : Result :=
  match outOfRange base count with
  | some a => .next (s.raise (.memoryOutOfBounds (encode i) s.fetchAddr a))
  | none => .next t

/-- The label 60_exceptions.md R201 gives each kind. -/
def FaultRecord.code : FaultRecord → String
  | .invalidOpcode _ _ => "1"
  | .stackOverflow _ _ => "2"
  | .stackUnderflow _ _ => "3"
  | .invalidRegister _ _ _ => "4"
  | .programCounterOutOfBounds _ => "5"
  | .memoryOutOfBounds _ _ _ => "6"
  | .romTooLarge _ => "L1"
  | .romUnreadable => "L2"
  | .backendError => "H1"

/-- The program counter the error report shows: `fetch_addr` for codes 1 to 4 and 6, `PC` for code 5, none for the others
(60_exceptions.md R202). -/
def FaultRecord.reportedPc : FaultRecord → Option Addr
  | .invalidOpcode _ a => some a
  | .stackOverflow _ a => some a
  | .stackUnderflow _ a => some a
  | .invalidRegister _ a _ => some a
  | .programCounterOutOfBounds pc => some pc
  | .memoryOutOfBounds _ a _ => some a
  | .romTooLarge _ => none
  | .romUnreadable => none
  | .backendError => none

/-- The instruction word the error report shows: recorded for codes 1 to 4 and 6 (60_exceptions.md R201). -/
def FaultRecord.reportedWord : FaultRecord → Option Word
  | .invalidOpcode w _ => some w
  | .stackOverflow w _ => some w
  | .stackUnderflow w _ => some w
  | .invalidRegister w _ _ => some w
  | .programCounterOutOfBounds _ => none
  | .memoryOutOfBounds w _ _ => some w
  | .romTooLarge _ => none
  | .romUnreadable => none
  | .backendError => none

end Sys2Proof.Machine
end

