-- ==== Sys2Proof/Machine/Flags.lean ====
section
/-!
DEFINITION. Every flag computation of the spec: `VF` is the only flag (10_state.md R22), each value 0 or 1, and it is the last
write of its instruction (R21).
-/

namespace Sys2Proof.Machine

/-- A flag value from its condition. -/
def flagByte (c : Bool) : Byte := if c then 1#8 else 0#8

/-- Carry of `a + b`: 1 iff the exact sum is 256 or more (42_arithmetic.md R126). -/
def carryFlag (a b : Byte) : Byte := flagByte (decide (256 ≤ a.toNat + b.toNat))

/-- No-borrow of `a - b`: 1 iff `a ≥ b` (42_arithmetic.md R127, R129). -/
def noBorrowFlag (a b : Byte) : Byte := flagByte (decide (b.toNat ≤ a.toNat))

/-- The bit a right shift by one shifts out: `a & 1` (42_arithmetic.md R128). -/
def lowBitFlag (a : Byte) : Byte := a &&& 1#8

/-- The bit a left shift by one shifts out: `a >> 7` (42_arithmetic.md R130). -/
def highBitFlag (a : Byte) : Byte := a >>> 7

/-- A result into `V[x]`, then the flag into `VF`, the last write (10_state.md R21). -/
def State.setResultAndFlag (s : State) (x : RegIx) (r flag : Byte) : State := (s.setReg x r).setReg vf flag

end Sys2Proof.Machine
end

