-- ==== Sys2Proof/Machine/Operands.lean ====
section
/-!
DEFINITION. The operand forms of the spec: zero-extended literals, the shifted register, the decimal digits of BCD, glyph
addresses and the start position and clipped extent of a sprite.
-/

namespace Sys2Proof.Machine

/-- `zext_16(nnn)` (30_encoding.md R72). -/
def zext16 (nnn : Lit12) : Addr := nnn.zeroExtend 16

/-- The value 8XY6 and 8XYE shift: `V[x]`, or `V[y]` under `SHIFT_SOURCE = Vy` (42_arithmetic.md R128, R130). -/
def State.shiftOperand (s : State) (x y : RegIx) : Byte :=
  match Params.shiftSource with
  | .vx => s.reg x
  | .vy => s.reg y

/-- The decimal digits of a byte: hundreds, tens, ones (46_memory_transfer.md R170). -/
def bcdDigits (v : Byte) : List Byte :=
  [BitVec.ofNat 8 (v.toNat / 100), BitVec.ofNat 8 (v.toNat / 10 % 10), BitVec.ofNat 8 (v.toNat % 10)]

/-- The address of the glyph of the low nibble: `0x050 + 5 * (v & 0xF)` (46_memory_transfer.md R173). -/
def glyphAddr (v : Byte) : Addr := BitVec.ofNat 16 (Config.fontBase + Config.glyphBytes * (v &&& 0x0F#8).toNat)

/-- How many registers `V0 .. Vx` are (46_memory_transfer.md R171, R172). -/
def regCount (x : RegIx) : Nat := x.toNat + 1

/-- `I` after FX55 or FX65: unchanged, or `I + x + 1` under `MEM_TRANSFER_INCREMENTS_I = true` (46_memory_transfer.md R171). -/
def indexAfterTransfer (i : Addr) (x : RegIx) : Addr :=
  if Params.memTransferIncrementsI then i + BitVec.ofNat 16 (regCount x) else i

/-- `x0 := V[x] mod 64` (44_display.md R151). -/
def State.spriteColumn (s : State) (x : RegIx) : Nat := (s.reg x).toNat % Config.fbWidth

/-- `y0 := V[y] mod 32` (44_display.md R151). -/
def State.spriteRow (s : State) (y : RegIx) : Nat := (s.reg y).toNat % Config.fbHeight

/-- `rows := min(n, 32 - y0)`: rows past the bottom edge are clipped (44_display.md R151). -/
def clippedRows (n : Nibble) (y0 : Nat) : Nat := min n.toNat (Config.fbHeight - y0)

/-- `cols := min(8, 64 - x0)`: columns past the right edge are clipped (44_display.md R151). -/
def clippedCols (x0 : Nat) : Nat := min 8 (Config.fbWidth - x0)

end Sys2Proof.Machine
end

