-- ==== Sys2Proof/Machine/Arithmetic.lean ====
section
/-!
DEFINITION. The register, arithmetic and bitwise instructions (42_arithmetic.md): all arithmetic wraps modulo 256 (R131), all
operand reads precede the write of `V[x]`, and the flag is the last write (10_state.md R21).
-/

namespace Sys2Proof.Machine

/-- LD Vx, byte (R120). -/
def execLdImm (x : RegIx) (nn : Byte) (s : State) : Result := .next (s.setReg x nn)

/-- ADD Vx, byte: no flag (R121). -/
def execAddImm (x : RegIx) (nn : Byte) (s : State) : Result := .next (s.setReg x (s.reg x + nn))

/-- LD Vx, Vy (R122). -/
def execLdReg (x y : RegIx) (s : State) : Result := .next (s.setReg x (s.reg y))

/-- OR Vx, Vy (R123, 92_eei_decisions.md D2). -/
def execOrReg (x y : RegIx) (s : State) : Result := .next (s.setReg x (s.reg x ||| s.reg y))

/-- AND Vx, Vy (R124, 92_eei_decisions.md D2). -/
def execAndReg (x y : RegIx) (s : State) : Result := .next (s.setReg x (s.reg x &&& s.reg y))

/-- XOR Vx, Vy (R125, 92_eei_decisions.md D2). -/
def execXorReg (x y : RegIx) (s : State) : Result := .next (s.setReg x (s.reg x ^^^ s.reg y))

/-- ADD Vx, Vy, with carry (R126). -/
def execAddReg (x y : RegIx) (s : State) : Result :=
  .next (s.setResultAndFlag x (s.reg x + s.reg y) (carryFlag (s.reg x) (s.reg y)))

/-- SUB Vx, Vy: `Vx - Vy`, with no-borrow (R127). -/
def execSub (x y : RegIx) (s : State) : Result :=
  .next (s.setResultAndFlag x (s.reg x - s.reg y) (noBorrowFlag (s.reg x) (s.reg y)))

/-- SHR Vx, Vy (R128). -/
def execShr (x y : RegIx) (s : State) : Result :=
  .next (s.setResultAndFlag x (s.shiftOperand x y >>> 1) (lowBitFlag (s.shiftOperand x y)))

/-- SUBN Vx, Vy: `Vy - Vx`, with no-borrow (R129). -/
def execSubn (x y : RegIx) (s : State) : Result :=
  .next (s.setResultAndFlag x (s.reg y - s.reg x) (noBorrowFlag (s.reg y) (s.reg x)))

/-- SHL Vx, Vy (R130). -/
def execShl (x y : RegIx) (s : State) : Result :=
  .next (s.setResultAndFlag x (s.shiftOperand x y <<< 1) (highBitFlag (s.shiftOperand x y)))

end Sys2Proof.Machine
end

