-- ==== Sys2Proof/Machine/ControlFlow.lean ====
section
/-!
DEFINITION. The control flow instructions (41_control_flow.md). On entry `PC` holds the instruction's address plus 2
(00_scope.md R11). The offset jump JP_V0 is in RandomIndex.lean.
-/

namespace Sys2Proof.Machine

/-- SYS: no state is written (R100, 92_eei_decisions.md D4). -/
def execSys (_nnn : Lit12) (s : State) : Result := .next s

/-- RET (R101). -/
def execRet (s : State) : Result :=
  match s.stack.getLast? with
  | none => .next (s.raise (.stackUnderflow (encode .ret) s.fetchAddr))
  | some a => .next ((s.setStack s.stack.dropLast).setPc a)

/-- JP (R102). -/
def execJp (nnn : Lit12) (s : State) : Result := .next (s.setPc (zext16 nnn))

/-- CALL: it pushes `PC`, already past the call (R103). The stack never exceeds its capacity (10_state.md R25). -/
def execCall (nnn : Lit12) (s : State) : Result :=
  if Config.stackCapacity ≤ s.stack.length then .next (s.raise (.stackOverflow (encode (.call nnn)) s.fetchAddr))
  else .next ((s.push s.pc).setPc (zext16 nnn))

/-- SE Vx, byte (R104). -/
def execSeImm (x : RegIx) (nn : Byte) (s : State) : Result := .next (s.skipIf (s.reg x == nn))

/-- SNE Vx, byte (R105). -/
def execSneImm (x : RegIx) (nn : Byte) (s : State) : Result := .next (s.skipIf (s.reg x != nn))

/-- SE Vx, Vy (R106). -/
def execSeReg (x y : RegIx) (s : State) : Result := .next (s.skipIf (s.reg x == s.reg y))

/-- SNE Vx, Vy (R107). -/
def execSneReg (x y : RegIx) (s : State) : Result := .next (s.skipIf (s.reg x != s.reg y))

end Sys2Proof.Machine
end

