-- ==== Sys2Proof/Machine/Blitter.lean ====
section
/-!
DEFINITION. The framebuffer's cells and the sprite blitter of 44_display.md R151, cell by cell as its pseudocode draws.
-/

namespace Sys2Proof.Machine

/-- All 2048 cells 0 (44_display.md R150). -/
def Framebuffer.clear : Framebuffer := Vector.replicate 32 0#64

/-- Row `y` of the grid; 0 where there is no such row. -/
def Framebuffer.row (f : Framebuffer) (y : Nat) : BitVec 64 := (f[y]?).getD 0#64

/-- `FB[x, y]` (10_state.md R27). -/
def Framebuffer.cell (f : Framebuffer) (x y : Nat) : Bool := (Framebuffer.row f y).getLsbD x

/-- `FB[x, y] <- FB[x, y] ^ 1` (44_display.md R151). -/
def Framebuffer.toggle (f : Framebuffer) (x y : Nat) : Framebuffer :=
  f.setIfInBounds y (Framebuffer.row f y ^^^ (1#64 <<< x))

/-- The 2048 elements handed to the backend's `draw`: cell `(x, y)` is element `y * 64 + x` (10_state.md R27, D18). -/
def Framebuffer.snapshot (f : Framebuffer) : List Bool :=
  (List.range Config.fbHeight).flatMap (fun y => (List.range Config.fbWidth).map (fun x => Framebuffer.cell f x y))

/-- A drawing under way: the framebuffer and the collision so far. -/
structure Drawing where
  fb        : Framebuffer
  collision : Bool
deriving DecidableEq, Repr

/-- A one bit of the sprite at `(x, y)`: a set cell is a collision, and the cell is toggled (44_display.md R151). -/
def drawCell (d : Drawing) (x y : Nat) : Drawing :=
  { fb := Framebuffer.toggle d.fb x y, collision := d.collision || Framebuffer.cell d.fb x y }

/-- The first `cols` columns of one sprite row at `(x0, y)`; bit 7 of the byte is the leftmost (44_display.md R151). -/
def drawRow (d : Drawing) (b : Byte) (x0 y cols : Nat) : Drawing :=
  (List.range cols).foldl (fun e c => if b.getLsbD (7 - c) then drawCell e (x0 + c) y else e) d

/-- The sprite's first `rows` rows, the bytes from `base` up in ascending order (44_display.md R151, 20_memory.md R58). -/
def drawRows (d : Drawing) (m : Memory) (base x0 y0 rows cols : Nat) : Drawing :=
  (List.range rows).foldl (fun e r => drawRow e (Memory.read m (base + r)) x0 (y0 + r) cols) d

end Sys2Proof.Machine
end

