-- ==== Sys2Proof/Machine/Display.lean ====
section
/-!
DEFINITION. The display instructions (44_display.md). Each ends with one present (R152).
-/

namespace Sys2Proof.Machine

/-- CLS (R150). -/
def execCls (s : State) : Result := .next ((s.setFb Framebuffer.clear).present .instruction)

/-- The drawing of DRW on the state `s` holds: start position wrapped, extent clipped, collision 0 at the start (R151). -/
def State.sprite (s : State) (x y : RegIx) (n : Nibble) : Drawing :=
  drawRows { fb := s.fb, collision := false } s.mem s.i.toNat (s.spriteColumn x) (s.spriteRow y)
    (clippedRows n (s.spriteRow y)) (clippedCols (s.spriteColumn x))

/-- DRW Vx, Vy, nibble: only the rows that will be drawn are range-checked and read; `VF` is the last write, then the present
(R151, R152, 92_eei_decisions.md D19). -/
def execDrw (x y : RegIx) (n : Nibble) (s : State) : Result :=
  s.rangeChecked (.drw x y n) s.i.toNat (clippedRows n (s.spriteRow y))
    (((s.setFb (s.sprite x y n).fb).setReg vf (flagByte (s.sprite x y n).collision)).present .instruction)

end Sys2Proof.Machine
end

