-- ==== Sys2Proof/Machine/KeypadTimers.lean ====
section
/-!
DEFINITION. The keypad and timer instructions (45_keypad_timers.md). The keypad's answers are draws of the cycle
(60_exceptions.md R211; log entry 18).
-/

namespace Sys2Proof.Machine

/-- SKP Vx: `InvalidRegister` where `V[x] > 0xF`, before the query (R160). -/
def execSkp (x : RegIx) (s : State) : Result :=
  if 0xF < (s.reg x).toNat then .next (s.raise (.invalidRegister (encode (.skp x)) s.fetchAddr (s.reg x)))
  else .next (s.skipIf (s.keyDown (s.reg x)))

/-- SKNP Vx (R161). -/
def execSknp (x : RegIx) (s : State) : Result :=
  if 0xF < (s.reg x).toNat then .next (s.raise (.invalidRegister (encode (.sknp x)) s.fetchAddr (s.reg x)))
  else .next (s.skipIf (!s.keyDown (s.reg x)))

/-- LD Vx, K: with no pending key `PC` goes back to the instruction, which is fetched again in the next cycle (R162). -/
def execLdVxK (x : RegIx) (s : State) : Result :=
  match s.input.pendingKey with
  | none => .next (s.setPc (s.pc - 2#16))
  | some k => .next (s.setReg x (k.zeroExtend 8))

/-- LD Vx, DT (R163). -/
def execLdVxDt (x : RegIx) (s : State) : Result := .next (s.setReg x s.dt)

/-- LD DT, Vx (R164). -/
def execLdDtVx (x : RegIx) (s : State) : Result := .next (s.setDt (s.reg x))

/-- LD ST, Vx (R165). -/
def execLdStVx (x : RegIx) (s : State) : Result := .next (s.setSt (s.reg x))

end Sys2Proof.Machine
end

