-- ==== Sys2Proof/Machine/MemoryTransfer.lean ====
section
/-!
DEFINITION. The memory block transfer and sprite-address instructions (46_memory_transfer.md). All use `I` as the base, and
check every address before the first write (60_exceptions.md R203).
-/

namespace Sys2Proof.Machine

/-- LD B, Vx: hundreds, tens and ones at `I`, `I+1`, `I+2` (R170). -/
def execLdB (x : RegIx) (s : State) : Result :=
  s.rangeChecked (.ldB x) s.i.toNat 3 (s.setMem (Memory.writeBytes s.mem s.i.toNat (bcdDigits (s.reg x))))

/-- LD [I], Vx: `V0 .. Vx` to `I .. I+x`; `I` is unchanged (R171). -/
def execLdMemVx (x : RegIx) (s : State) : Result :=
  s.rangeChecked (.ldMemVx x) s.i.toNat (regCount x)
    ((s.setMem (Memory.writeBytes s.mem s.i.toNat (s.firstRegs (regCount x)))).setI (indexAfterTransfer s.i x))

/-- LD Vx, [I]: `I .. I+x` to `V0 .. Vx`; `I` is unchanged (R172). -/
def execLdVxMem (x : RegIx) (s : State) : Result :=
  s.rangeChecked (.ldVxMem x) s.i.toNat (regCount x)
    ((s.loadRegs s.i.toNat (regCount x)).setI (indexAfterTransfer s.i x))

/-- LD F, Vx (R173). -/
def execLdF (x : RegIx) (s : State) : Result := .next (s.setI (glyphAddr (s.reg x)))

end Sys2Proof.Machine
end

