-- ==== Sys2Proof/Machine/RandomIndex.lean ====
section
/-!
DEFINITION. The random, index and offset-jump instructions (43_random_index.md).
-/

namespace Sys2Proof.Machine

/-- RND Vx, byte: the drawn byte is the cycle's free draw (R140, 92_eei_decisions.md D23; log entry 1). -/
def execRnd (x : RegIx) (nn : Byte) (s : State) : Result := .next (s.setReg x (s.input.random &&& nn))

/-- LD I, addr (R141). -/
def execLdI (nnn : Lit12) (s : State) : Result := .next (s.setI (zext16 nnn))

/-- JP V0, addr: only `V0` is added, and the sum is kept at 16 bits (R142). -/
def execJpV0 (nnn : Lit12) (s : State) : Result := .next (s.setPc ((s.reg 0#4).zeroExtend 16 + zext16 nnn))

/-- ADD I, Vx: modulo 65536, `VF` not written (R143, 92_eei_decisions.md D3). -/
def execAddI (x : RegIx) (s : State) : Result := .next (s.setI (s.i + (s.reg x).zeroExtend 16))

end Sys2Proof.Machine
end

