-- ==== Sys2Proof/Machine/RunLoop.lean ====
section
/-!
DEFINITION. What a cycle does around the execution of an instruction (70_reset_and_hazards.md, 60_exceptions.md): the gate, the
timer tick, the fetch, the step disarm, the poll and its signals, the RESET transition; and construction with its load check.
-/

namespace Sys2Proof.Machine

/-! ## Cycle step 1 -/

/-- `Gate()` (70_reset_and_hazards.md R246). -/
def State.gateOpen (s : State) : Bool := !s.paused && (!s.stepMode || s.stepArmed)

/-- A countdown timer goes down by 1 and never below 0 (60_exceptions.md R209). -/
def countDown (b : Byte) : Byte := if b = 0#8 then 0#8 else b - 1#8

/-- `TimerTick()`: both timers together (60_exceptions.md R209). -/
def State.timerTick (s : State) : State := (s.setDt (countDown s.dt)).setSt (countDown s.st)

/-- The draw `tick` and what follows from it: in a cycle whose gate is open, before the fetch; in every cycle under
`TICK_WHILE_GATED = true` (70_reset_and_hazards.md R245, R247; log entries 12, 17). -/
def State.tickPhase (s : State) : State :=
  if (Params.tickWhileGated || s.gateOpen) && s.input.tick then s.timerTick else s

/-- The word at address `a`, big-endian (20_memory.md R55). -/
def fetchWord (m : Memory) (a : Nat) : Word := wordOfBytes (m.read a) (m.read (a + 1))

/-- `Fetch()`: the bound check, the word, and `PC` advanced by 2 modulo 65536 (20_memory.md R57). -/
def State.fetch (s : State) : Except FaultRecord (Word × State) :=
  if Params.pcFaultLimit ≤ s.pc.toNat then .error (.programCounterOutOfBounds s.pc)
  else .ok (fetchWord s.mem s.pc.toNat, s.setPc (s.pc + 2#16))

/-! ## Cycle step 4 -/

/-- `step_armed <- false`. -/
def State.disarm (s : State) : State := { s with stepArmed := false }

/-- The step disarm: the present first, then the disarm, which a failing draw leaves undone (60_exceptions.md R219; log entry 15).
It does not ask whether the machine is paused (92_eei_decisions.md D22; log entry 31). -/
def State.disarmStep (s : State) : State :=
  if s.stepMode && s.stepArmed then (s.present .stepDisarm).unlessFaulted State.disarm else s

/-! ## Reset and cycle step 5 -/

/-- The address lies in the font or in the program as loaded (70_reset_and_hazards.md R243). -/
def inFontOrProgram (romLen a : Nat) : Bool :=
  (decide (Config.fontBase ≤ a) && decide (a < Config.fontBase + 80)) ||
  (decide (Config.programBase ≤ a) && decide (a < Config.programBase + romLen))

/-- What RESET leaves of memory: all of it, or under the alternative policy zero outside the font and the program
(70_reset_and_hazards.md R243; log entry 11). -/
def memoryAfterReset (m : Memory) (romLen : Nat) : Memory :=
  match Params.resetMemoryPolicy with
  | .keepAll => m
  | .zeroOutsideFontAndProgram => m.filter (fun c => inFontOrProgram romLen c.1)

/-- `Reset()`: the debug flags and `quit` are unchanged, and one present ends it (70_reset_and_hazards.md R243). The timestamp
`last_tick` is not held (10_state.md R32; log entry 17). -/
def State.resetTransition (s : State) : State :=
  ({ s with v := Vector.replicate 16 0#8, i := 0#16, pc := 0x200#16, stack := [], dt := 0#8, st := 0#8,
            fb := Framebuffer.clear, mem := memoryAfterReset s.mem s.romLen }).present .reset

/-- `PAUSE`, only with `debug_enabled` (60_exceptions.md R216). -/
def State.pauseSignal (s : State) : State :=
  if s.debugEnabled then ({ s with paused := !s.paused }).present .pause else s

/-- `TOGGLE_STEP_MODE`, only with `debug_enabled`; `step_armed` is unchanged (60_exceptions.md R217). -/
def State.toggleStepModeSignal (s : State) : State :=
  if s.debugEnabled then ({ s with stepMode := !s.stepMode }).present .toggleStepMode else s

/-- `ADVANCE_STEP`, whatever the mode; no present (60_exceptions.md R218). -/
def State.advanceStepSignal (s : State) : State := { s with stepArmed := true }

/-- A signal of the poll is applied where it was delivered and no failed present ended the run before it. -/
def State.onSignal (s : State) (delivered : Bool) (f : State → State) : State :=
  s.unlessFaulted (fun t => if delivered then f t else t)

/-- `ApplySignals(sig)`, in the order QUIT, PAUSE, TOGGLE_STEP_MODE, ADVANCE_STEP, RESET; QUIT ends it (60_exceptions.md
R215, R220). -/
def State.applySignals (s : State) (g : Signals) : State :=
  if g.quit then { s with quit := true }
  else
    (((s.onSignal g.pause State.pauseSignal).onSignal g.toggleStepMode State.toggleStepModeSignal).onSignal
      g.advanceStep State.advanceStepSignal).onSignal g.reset State.resetTransition

/-- Cycle step 5: a failing poll ends the run with `BackendError` (60_exceptions.md R207). -/
def State.pollPhase (s : State) : State :=
  match s.input.poll with
  | .signals g => s.applySignals g
  | .failed => s.raise .backendError

/-- Cycle steps 3 to 5 and the end of the cycle, unless a fault ends it on the way (60_exceptions.md R202). Step 3 sleeps and
changes no state (R222). -/
def State.finishCycle (s : State) : State :=
  ((s.unlessFaulted State.disarmStep).unlessFaulted State.pollPhase).unlessFaulted State.nextInput

/-! ## Construction -/

/-- What the ROM source gives: its bytes, or nothing (00_scope.md R6, 60_exceptions.md R201 L2). -/
inductive RomSource where
  | bytes (rom : List Byte)
  | unreadable
deriving DecidableEq, Repr

/-- What the environment provides at launch (70_reset_and_hazards.md R242), and the draws laid down for the first cycles. -/
structure Launch where
  rom          : RomSource
  debugEnabled : Bool
  backendReady : Bool
  inputs       : List CycleInput
deriving DecidableEq, Repr

/-- The state construction makes of an accepted ROM (70_reset_and_hazards.md R240). -/
def State.constructed (rom : List Byte) (debugEnabled : Bool) (inputs : List CycleInput) : State :=
  { State.reset with mem := Memory.writeBytes [] Config.programBase rom, romLen := rom.length,
                     debugEnabled := debugEnabled, inputs := inputs }

/-- Construction with its load check: an unreadable ROM, then one that is too long, then a backend that failed to initialize,
each before any cycle (70_reset_and_hazards.md R240, R241; 60_exceptions.md R205, R206, R207; log entry 16). -/
def construct (l : Launch) : Result :=
  match l.rom with
  | .unreadable => .fault (.stopped .romUnreadable)
  | .bytes rom =>
    if Config.maxRomLen < rom.length then .fault (.stopped (.romTooLarge rom.length))
    else if !l.backendReady then .fault (.stopped .backendError)
    else .next (State.constructed rom l.debugEnabled l.inputs)

end Sys2Proof.Machine
end

