-- ==== Sys2Proof/Machine/Cycle.lean ====
section
/-!
DEFINITION. The cycle of 70_reset_and_hazards.md R245, and how it stops.
-/

namespace Sys2Proof.Machine

/-- After an instruction: the rest of the cycle, from the state it left. -/
def afterExec : Result → Result
  | .next t => .next t.finishCycle
  | .fault r => .fault r
  | .refused r => .refused r

/-- Cycle steps 1 and 2 with the gate open, after the tick: fetch, decode, execute, then the rest of the cycle. A fault of
the fetch or of the decoder is entered like any other (60_exceptions.md R202), in the order of R205. -/
def fetchAndExecute (s : State) : Result :=
  match s.fetch with
  | .error f => .next (s.raise f)
  | .ok (w, t) =>
    match decode w with
    | .error _ => .next (t.raise (.invalidOpcode w s.pc))
    | .ok i => afterExec (exec i t)

/-- `Cycle()`: with the gate closed, only steps 3 to 5 (70_reset_and_hazards.md R245). -/
def runCycle (s : State) : Result :=
  if s.gateOpen then fetchAndExecute s.tickPhase else .next s.tickPhase.finishCycle

/-- A cycle runs while `quit` is false and `F` is none (70_reset_and_hazards.md R245); otherwise there is no further step
(60_exceptions.md R202, R220). -/
def runOrStop (s : State) : Result :=
  if s.quit then .fault .quit
  else
    match s.fault with
    | some f => .fault (.stopped f)
    | none => runCycle s

/-- The two bytes of a table word stored at `PC` and `PC + 1`, the first at the lower address (20_memory.md R55). -/
def State.storeFetchWord (s : State) (nbits w : Nat) : State :=
  s.setMem (Memory.writeBytes s.mem s.pc.toNat (tableWordBytes nbits w))

end Sys2Proof.Machine
end

