-- ==== Sys2Proof/Machine/Step.lean ====
section
/-!
DEFINITION. The step: one cycle of the run loop (70_reset_and_hazards.md R245).
-/

namespace Sys2Proof.Machine

/-- One cycle of the run loop, or why there is none. -/
def step (s : State) : Host.Outcome State Fault Refusal := runOrStop s

/-- `s` with the instruction of a table word where the next fetch reads (log entry 14). -/
def State.withFetchWord (s : State) (nbits w : Nat) : State := s.storeFetchWord nbits w

end Sys2Proof.Machine
end

