-- ==== Sys2Proof/Safety.lean ====
section
/-!
DEFINITION. The terms claims about the machine use: what a state keeps, what runs, how a run ends, and the invariant of the core.
-/

namespace Sys2Proof.Machine

/-- The parts of the state a claim may name as changed. -/
inductive Part where
  | reg (x : RegIx)
  | i
  | pc
  | stack
  | mem
  | fb
  | dt
  | st
  | paused
  | stepMode
  | stepArmed
  | quit
  | fault
  | presents
  /-- the draws laid down and the cycle counter -/
  | draws
deriving DecidableEq, Repr

/-- The frame: of two states the second differs from the first at most in the named parts. Memory is compared by the read of
every byte. The launch configuration never changes (10_state.md R30). -/
structure OnlyChanges (ps : List Part) (s t : State) : Prop where
  reg       : ∀ x, Part.reg x ∉ ps → t.reg x = s.reg x
  i         : Part.i ∉ ps → t.i = s.i
  pc        : Part.pc ∉ ps → t.pc = s.pc
  stack     : Part.stack ∉ ps → t.stack = s.stack
  mem       : Part.mem ∉ ps → ∀ a, t.mem.read a = s.mem.read a
  fb        : Part.fb ∉ ps → t.fb = s.fb
  dt        : Part.dt ∉ ps → t.dt = s.dt
  st        : Part.st ∉ ps → t.st = s.st
  paused    : Part.paused ∉ ps → t.paused = s.paused
  stepMode  : Part.stepMode ∉ ps → t.stepMode = s.stepMode
  stepArmed : Part.stepArmed ∉ ps → t.stepArmed = s.stepArmed
  quit      : Part.quit ∉ ps → t.quit = s.quit
  fault     : Part.fault ∉ ps → t.fault = s.fault
  presents  : Part.presents ∉ ps → t.presents = s.presents
  inputs    : Part.draws ∉ ps → t.inputs = s.inputs
  cycle     : Part.draws ∉ ps → t.cycle = s.cycle
  debug     : t.debugEnabled = s.debugEnabled
  romLen    : t.romLen = s.romLen

/-- A cycle runs from this state: `quit` is false and `F` is none (70_reset_and_hazards.md R245). -/
def Running (s : State) : Prop := s.quit = false ∧ s.fault = none

/-- The backend's `draw` does not fail at this present of the cycle, the premise 60_exceptions.md R207 names. -/
def DrawSucceeds (s : State) (site : PresentSite) : Prop := site ∉ s.input.failing

/-- The run ended normally: `quit` is set and no fault is recorded (60_exceptions.md R223 (a)). -/
def NormalEnd (s : State) : Prop := s.quit = true ∧ s.fault = none

/-- The run ended by a fault, of the program or of the environment (60_exceptions.md R223 (b), (c)). -/
def FaultEnd (s : State) (f : FaultRecord) : Prop := s.fault = some f

/-- The claim-level final state of 60_exceptions.md R223: a named address is reached and no fault is recorded. -/
def ReachedStop (s : State) (a : Addr) : Prop := s.pc = a ∧ s.fault = none

/-- The state in which the cycle from `s` executes its instruction: after the tick, with `PC` advanced past the word
(70_reset_and_hazards.md R245, 00_scope.md R11). -/
def State.atExecute (s : State) : State := s.tickPhase.setPc (s.pc + 2#16)

/-- The word the cycle from `s` fetches (20_memory.md R57). -/
def State.nextWord (s : State) : Word := fetchWord s.mem s.pc.toNat

/-- The cycle from `s` fetches: it runs, its gate is open and `PC` is below `PC_FAULT_LIMIT` = 0xFFE (70_reset_and_hazards.md
R245, R246; 20_memory.md R57). -/
def Fetches (s : State) : Prop := Running s ∧ s.gateOpen = true ∧ s.pc.toNat < 0xFFE

/-- A saved return address is the address after a CALL that was fetched below `PC_FAULT_LIMIT` (41_control_flow.md R101, R103;
20_memory.md R57). -/
def ReturnAddress (a : Addr) : Prop := 2 ≤ a.toNat ∧ a.toNat < 0x1000

/-- The invariant of the core: memory is in canonical form, the stack is within its capacity (10_state.md R25) and holds return
addresses only, and without `debug_enabled` neither pause nor step mode is on (70_reset_and_hazards.md R246). -/
structure Inv (s : State) : Prop where
  memory     : s.mem.wf = true
  stackBound : s.stack.length ≤ Config.stackCapacity
  returns    : ∀ a ∈ s.stack, ReturnAddress a
  debugOff   : s.debugEnabled = false → s.paused = false ∧ s.stepMode = false

end Sys2Proof.Machine
end

