-- ==== Sys2Proof/Certificates/Slice0/Obligations.lean ====
section
/-!
DEFINITION. The statements for the provers. On entry to `exec`, `PC` holds the instruction's address plus 2 (00_scope.md R11), so
a statement that needs the address takes it as `a` with `s.pc = a + 2`. The premise that memory is canonical is the invariant
`Inv.memory`, itself a statement below. The premise `DrawSucceeds` is the one 60_exceptions.md R207 asks for. Every opcode but those
of 1NNN and BNNN is the spec's from general knowledge (G2; log entry 13), and so is each decode clause below that names one.
-/

open Sys2Proof Sys2Proof.Machine

/-! ## Encoding -/

/-- Every well-formed instruction's word decodes to it, whatever its operands (30_encoding.md R71 to R80). -/
def Obligations.DecodeOfEncode : Prop :=
  ∀ i : Instr, WellFormed i = true → decode (encode i) = .ok i

/-- A word that decodes to an instruction is that instruction's word, and the instruction is well formed: no word has two
meanings (30_encoding.md R74, R81), and the word a fault record computes from the instruction is the word fetched. -/
def Obligations.EncodeOfDecode : Prop :=
  ∀ (w : Word) (i : Instr), decode w = .ok i → encode i = w ∧ WellFormed i = true

/-- R76: class 0 in its order; no class-0 word is invalid, which is the spec's own decision D4 (log entry 13). -/
def Obligations.ClassZeroDecodes : Prop :=
  decode 0x00E0#16 = .ok .cls ∧ decode 0x00EE#16 = .ok .ret ∧
  (∀ w : Word, w.toNat ≤ 0x0FFF → w ≠ 0x00E0#16 → w ≠ 0x00EE#16 → ∃ nnn : Lit12, nnn.toNat = w.toNat ∧ decode w = .ok (.sys nnn))

/-- R77, R78, R79, R80: every word is an instruction or InvalidOpcode, and exactly these words are InvalidOpcode; the class is the
word's top four bits, `n` its low four, `nn` its low eight. The opcode map is the spec's from general knowledge, classes 5 and 9
its own decision D8 (log entry 13). -/
def Obligations.InvalidWords : Prop :=
  ∀ w : Word,
    ((∃ i, decode w = .ok i) ∨ decode w = .error (.invalidOpcode w)) ∧
    (decode w = .error (.invalidOpcode w) ↔
      ((w.toNat / 0x1000 = 0x5 ∨ w.toNat / 0x1000 = 0x9) ∧ w.toNat % 16 ≠ 0) ∨
      (w.toNat / 0x1000 = 0x8 ∧ w.toNat % 16 ∉ [0x0, 0x1, 0x2, 0x3, 0x4, 0x5, 0x6, 0x7, 0xE]) ∨
      (w.toNat / 0x1000 = 0xE ∧ w.toNat % 256 ∉ [0x9E, 0xA1]) ∨
      (w.toNat / 0x1000 = 0xF ∧ w.toNat % 256 ∉ [0x07, 0x0A, 0x15, 0x18, 0x1E, 0x29, 0x33, 0x55, 0x65]))

/-- Nine words of 95_test_vectors.md 2.1 decode as that table says. That 0x0000 and 0x00E1 are SYS and 0x5121 is invalid is the
spec's own decision D4 and D8, and the map its general knowledge (log entry 13). -/
def Obligations.SampleWordsDecode : Prop :=
  decode 0x0000#16 = .ok (.sys 0x000#12) ∧ decode 0x00E1#16 = .ok (.sys 0x0E1#12) ∧
  decode 0x5120#16 = .ok (.seReg 1#4 2#4) ∧ decode 0x5121#16 = .error (.invalidOpcode 0x5121#16) ∧
  decode 0x8FFE#16 = .ok (.shl 0xF#4 0xF#4) ∧ decode 0xB123#16 = .ok (.jpV0 0x123#12) ∧
  decode 0xEFA1#16 = .ok (.sknp 0xF#4) ∧ decode 0xFF65#16 = .ok (.ldVxMem 0xF#4) ∧
  decode 0xF090#16 = .error (.invalidOpcode 0xF090#16)

/-- A table word is decoded as its word is, and stored by `withFetchWord` it is the word the next fetch reads, with nothing but
its two bytes changed (20_memory.md R55, R57). -/
def Obligations.TableWordIsFetched : Prop :=
  (∀ (w : Word) (i : Instr), decodeTableWord 16 w.toNat = some i ↔ decode w = .ok i) ∧
  (∀ (s : State) (w : Word), s.mem.wf = true → s.pc.toNat < 0xFFE →
    (s.withFetchWord 16 w.toNat).nextWord = w ∧ OnlyChanges [.mem] s (s.withFetchWord 16 w.toNat) ∧
    ∀ a, a ≠ s.pc.toNat → a ≠ s.pc.toNat + 1 → (s.withFetchWord 16 w.toNat).mem.read a = s.mem.read a)

/-! ## Control flow (41_control_flow.md) -/

/-- R100: SYS writes no state, the spec's own decision D4 (log entry 13). -/
def Obligations.SysWritesNothing : Prop :=
  (∀ nnn : Lit12, nnn ≠ 0x0E0#12 → nnn ≠ 0x0EE#12 → decode (0x0#4 ++ nnn) = .ok (.sys nnn)) ∧
  (∀ (nnn : Lit12) (s : State), exec (.sys nnn) s = .next s)

/-- R101: RET pops the top into `PC`; on an empty stack it faults and changes nothing else. The opcode 00EE is the spec's from general
knowledge (G2; log entry 13), the fault's precision and address its own decision D10 (log entry 34). -/
def Obligations.RetPopsOrUnderflows : Prop :=
  decode 0x00EE#16 = .ok .ret ∧
  (∀ (s : State) (below : List Addr) (top : Addr), s.stack = below ++ [top] →
    ∃ t, exec .ret s = .next t ∧ t.pc = top ∧ t.stack = below ∧ OnlyChanges [.pc, .stack] s t) ∧
  (∀ (s : State) (a : Addr), s.pc = a + 2#16 → s.stack = [] →
    exec .ret s = .next { s with fault := some (.stackUnderflow 0x00EE#16 a) })

/-- R102: JP sets `PC` to exactly `nnn`. -/
def Obligations.JpSetsPc : Prop :=
  ∀ nnn : Lit12, decode (0x1#4 ++ nnn) = .ok (.jp nnn) ∧
    ∀ s : State, ∃ t, exec (.jp nnn) s = .next t ∧ t.pc.toNat = nnn.toNat ∧ OnlyChanges [.pc] s t

/-- R103: CALL pushes `PC` and jumps; with 16 entries it faults and changes nothing else. The opcode 2NNN is the spec's from general
knowledge (G2; log entry 13), the fault's precision and address its own decision D10 (log entry 34). -/
def Obligations.CallPushesOrOverflows : Prop :=
  ∀ nnn : Lit12, decode (0x2#4 ++ nnn) = .ok (.call nnn) ∧
    (∀ s : State, s.stack.length < 16 →
      ∃ t, exec (.call nnn) s = .next t ∧ t.stack = s.stack ++ [s.pc] ∧ t.pc.toNat = nnn.toNat ∧
        OnlyChanges [.pc, .stack] s t) ∧
    (∀ (s : State) (a : Addr), s.pc = a + 2#16 → s.stack.length = 16 →
      exec (.call nnn) s = .next { s with fault := some (.stackOverflow (0x2#4 ++ nnn) a) })

/-- R104, R105: the skips on an immediate. The opcodes 3XNN and 4XNN are the spec's from general knowledge (G2; log entry 13). -/
def Obligations.SkipsOnImmediate : Prop :=
  ∀ (x : RegIx) (nn : Byte),
    decode (0x3#4 ++ x ++ nn) = .ok (.seImm x nn) ∧ decode (0x4#4 ++ x ++ nn) = .ok (.sneImm x nn) ∧
    ∀ s : State,
      (∃ t, exec (.seImm x nn) s = .next t ∧ t.pc = (if s.reg x = nn then s.pc + 2#16 else s.pc) ∧
        OnlyChanges [.pc] s t) ∧
      (∃ t, exec (.sneImm x nn) s = .next t ∧ t.pc = (if s.reg x = nn then s.pc else s.pc + 2#16) ∧
        OnlyChanges [.pc] s t)

/-- R106, R107: the skips on two registers. The opcodes 5XY0 and 9XY0 are the spec's from general knowledge (G2; log entry 13). -/
def Obligations.SkipsOnRegisters : Prop :=
  ∀ x y : RegIx,
    decode (0x5#4 ++ x ++ y ++ 0x0#4) = .ok (.seReg x y) ∧ decode (0x9#4 ++ x ++ y ++ 0x0#4) = .ok (.sneReg x y) ∧
    ∀ s : State,
      (∃ t, exec (.seReg x y) s = .next t ∧ t.pc = (if s.reg x = s.reg y then s.pc + 2#16 else s.pc) ∧
        OnlyChanges [.pc] s t) ∧
      (∃ t, exec (.sneReg x y) s = .next t ∧ t.pc = (if s.reg x = s.reg y then s.pc else s.pc + 2#16) ∧
        OnlyChanges [.pc] s t)

/-- CALL then RET, whatever ran between as long as the stack is as CALL left it: `PC` and the stack are as before the CALL
(41_control_flow.md R101, R103, R109). -/
def Obligations.ReturnComesBack : Prop :=
  ∀ (nnn : Lit12) (s t u : State), s.stack.length < 16 → exec (.call nnn) s = .next t → u.stack = t.stack →
    ∃ v, exec .ret u = .next v ∧ v.pc = s.pc ∧ v.stack = s.stack

/-! ## Register, arithmetic and bitwise (42_arithmetic.md) -/

/-- R120, R121: load and add immediate; no flag. The spec supplies both from general knowledge (log entry 13). -/
def Obligations.ImmediateToRegister : Prop :=
  ∀ (x : RegIx) (nn : Byte),
    decode (0x6#4 ++ x ++ nn) = .ok (.ldImm x nn) ∧ decode (0x7#4 ++ x ++ nn) = .ok (.addImm x nn) ∧
    ∀ s : State,
      (∃ t, exec (.ldImm x nn) s = .next t ∧ t.reg x = nn ∧ OnlyChanges [.reg x] s t) ∧
      (∃ t, exec (.addImm x nn) s = .next t ∧ (t.reg x).toNat = ((s.reg x).toNat + nn.toNat) % 256 ∧
        OnlyChanges [.reg x] s t)

/-- R122, R123, R124, R125: copy and the bitwise operations, bit by bit. The spec supplies them from general knowledge, and that
`VF` changes only as the destination is its own decision D2 (log entry 13). -/
def Obligations.CopyAndBitwise : Prop :=
  ∀ x y : RegIx,
    decode (0x8#4 ++ x ++ y ++ 0x0#4) = .ok (.ldReg x y) ∧ decode (0x8#4 ++ x ++ y ++ 0x1#4) = .ok (.orReg x y) ∧
    decode (0x8#4 ++ x ++ y ++ 0x2#4) = .ok (.andReg x y) ∧ decode (0x8#4 ++ x ++ y ++ 0x3#4) = .ok (.xorReg x y) ∧
    ∀ s : State,
      (∃ t, exec (.ldReg x y) s = .next t ∧ t.reg x = s.reg y ∧ OnlyChanges [.reg x] s t) ∧
      (∃ t, exec (.orReg x y) s = .next t ∧ OnlyChanges [.reg x] s t ∧
        ∀ k, k < 8 → (t.reg x).getLsbD k = ((s.reg x).getLsbD k || (s.reg y).getLsbD k)) ∧
      (∃ t, exec (.andReg x y) s = .next t ∧ OnlyChanges [.reg x] s t ∧
        ∀ k, k < 8 → (t.reg x).getLsbD k = ((s.reg x).getLsbD k && (s.reg y).getLsbD k)) ∧
      (∃ t, exec (.xorReg x y) s = .next t ∧ OnlyChanges [.reg x] s t ∧
        ∀ k, k < 8 → (t.reg x).getLsbD k = ((s.reg x).getLsbD k ^^ (s.reg y).getLsbD k))

/-- R126: ADD with carry; the flag is the last write. The opcode 8XY4 is the spec's from general knowledge (G2; log entry 13). -/
def Obligations.AddWithCarry : Prop :=
  ∀ x y : RegIx, decode (0x8#4 ++ x ++ y ++ 0x4#4) = .ok (.addReg x y) ∧
    ∀ s : State, ∃ t, exec (.addReg x y) s = .next t ∧
      (x ≠ vf → (t.reg x).toNat = ((s.reg x).toNat + (s.reg y).toNat) % 256) ∧
      t.reg vf = (if 256 ≤ (s.reg x).toNat + (s.reg y).toNat then 1#8 else 0#8) ∧
      OnlyChanges [.reg x, .reg vf] s t

/-- R127: SUB with no-borrow; the flag is the last write. The opcode 8XY5 is the spec's from general knowledge (G2; log entry 13). -/
def Obligations.SubWithNoBorrow : Prop :=
  ∀ x y : RegIx, decode (0x8#4 ++ x ++ y ++ 0x5#4) = .ok (.sub x y) ∧
    ∀ s : State, ∃ t, exec (.sub x y) s = .next t ∧
      (x ≠ vf → (t.reg x).toNat = ((s.reg x).toNat + 256 - (s.reg y).toNat) % 256) ∧
      t.reg vf = (if (s.reg y).toNat ≤ (s.reg x).toNat then 1#8 else 0#8) ∧
      OnlyChanges [.reg x, .reg vf] s t

/-- R129: SUBN, the mirror of SUB. The opcode 8XY7 is the spec's from general knowledge (G2; log entry 13). -/
def Obligations.SubnWithNoBorrow : Prop :=
  ∀ x y : RegIx, decode (0x8#4 ++ x ++ y ++ 0x7#4) = .ok (.subn x y) ∧
    ∀ s : State, ∃ t, exec (.subn x y) s = .next t ∧
      (x ≠ vf → (t.reg x).toNat = ((s.reg y).toNat + 256 - (s.reg x).toNat) % 256) ∧
      t.reg vf = (if (s.reg x).toNat ≤ (s.reg y).toNat then 1#8 else 0#8) ∧
      OnlyChanges [.reg x, .reg vf] s t

/-- R128, R130 at the value `SHIFT_SOURCE = Vx`, which is the spec's own decision D1 (log entry 8): the shifts read `V[x]` and
ignore `y`; the flag is the bit shifted out of the value before the shift, and the last write. -/
def Obligations.Shifts : Prop :=
  ∀ x y : RegIx,
    decode (0x8#4 ++ x ++ y ++ 0x6#4) = .ok (.shr x y) ∧ decode (0x8#4 ++ x ++ y ++ 0xE#4) = .ok (.shl x y) ∧
    ∀ s : State,
      (∃ t, exec (.shr x y) s = .next t ∧ (x ≠ vf → (t.reg x).toNat = (s.reg x).toNat / 2) ∧
        (t.reg vf).toNat = (s.reg x).toNat % 2 ∧ OnlyChanges [.reg x, .reg vf] s t) ∧
      (∃ t, exec (.shl x y) s = .next t ∧ (x ≠ vf → (t.reg x).toNat = (s.reg x).toNat * 2 % 256) ∧
        (t.reg vf).toNat = (s.reg x).toNat / 128 ∧ OnlyChanges [.reg x, .reg vf] s t)

/-! ## Random, index, offset jump (43_random_index.md) -/

/-- R140: RND masks the drawn byte, whatever the draw; no flag. -/
def Obligations.RndMasksTheDraw : Prop :=
  ∀ (x : RegIx) (nn : Byte), decode (0xC#4 ++ x ++ nn) = .ok (.rnd x nn) ∧
    ∀ s : State, ∃ t, exec (.rnd x nn) s = .next t ∧ OnlyChanges [.reg x] s t ∧
      ∀ k, k < 8 → (t.reg x).getLsbD k = (s.input.random.getLsbD k && nn.getLsbD k)

/-- R142: the offset jump sets `PC` to `V0` plus `nnn` at 16 bits; only `V0` is added, whatever the word's second digit. -/
def Obligations.OffsetJumpAddsV0 : Prop :=
  ∀ nnn : Lit12, decode (0xB#4 ++ nnn) = .ok (.jpV0 nnn) ∧
    ∀ s : State, ∃ t, exec (.jpV0 nnn) s = .next t ∧ t.pc.toNat = ((s.reg 0#4).toNat + nnn.toNat) % 65536 ∧
      OnlyChanges [.pc] s t

/-- R141, R143: set index, and add to index modulo 65536, not to 12 bits, without a write of `VF`. The opcodes ANNN and FX1E are the
spec's from general knowledge (G2), and so is R143 with its own decision D3 (log entry 13). -/
def Obligations.SetAndAddToIndex : Prop :=
  (∀ nnn : Lit12, decode (0xA#4 ++ nnn) = .ok (.ldI nnn) ∧
    ∀ s : State, ∃ t, exec (.ldI nnn) s = .next t ∧ t.i.toNat = nnn.toNat ∧ OnlyChanges [.i] s t) ∧
  (∀ x : RegIx, decode (0xF#4 ++ x ++ 0x1E#8) = .ok (.addI x) ∧
    ∀ s : State, ∃ t, exec (.addI x) s = .next t ∧ t.i.toNat = (s.i.toNat + (s.reg x).toNat) % 65536 ∧
      OnlyChanges [.i] s t)

/-! ## Display (44_display.md) -/

/-- R150: CLS clears every cell and ends with one present of the cleared framebuffer; that it presents once is the spec's own
decision D20 (44_display.md R152; log entry 30). -/
def Obligations.ClsClearsAndPresents : Prop :=
  decode 0x00E0#16 = .ok .cls ∧
  ∀ s : State, DrawSucceeds s .instruction →
    ∃ t, exec .cls s = .next t ∧ (∀ x y, x < 64 → y < 32 → Framebuffer.cell t.fb x y = false) ∧
      t.presents = t.fb :: s.presents ∧ OnlyChanges [.fb, .presents] s t

/-- R151: DRW. `x0`, `y0` are the wrapped start, `rows`, `cols` the clipped extent. Each cell is XORed with the sprite's bit; `VF`
says whether a set cell lay under a one bit; one present ends it. A drawn row at or above 4096 faults, changing nothing else.
The fault, the unread clipped rows, the bit order and the present are the spec's own decisions D5, D19, D35, D20 (log entries 24,
29, 30). -/
def Obligations.DrwXorsCollidesClips : Prop :=
  ∀ (x y : RegIx) (n : Nibble), decode (0xD#4 ++ x ++ y ++ n) = .ok (.drw x y n) ∧
    ∀ (s : State) (x0 y0 rows cols : Nat), x0 = (s.reg x).toNat % 64 → y0 = (s.reg y).toNat % 32 →
      rows = min n.toNat (32 - y0) → cols = min 8 (64 - x0) →
      ((rows = 0 ∨ s.i.toNat + rows ≤ 4096) → DrawSucceeds s .instruction →
        ∃ t, exec (.drw x y n) s = .next t ∧
          (∀ u v, u < 64 → v < 32 → Framebuffer.cell t.fb u v =
            (Framebuffer.cell s.fb u v ^^
              (decide (x0 ≤ u ∧ u < x0 + cols ∧ y0 ≤ v ∧ v < y0 + rows) &&
                (s.mem.read (s.i.toNat + (v - y0))).getLsbD (7 - (u - x0))))) ∧
          (t.reg vf = 0#8 ∨ t.reg vf = 1#8) ∧
          (t.reg vf = 1#8 ↔ ∃ r c, r < rows ∧ c < cols ∧ (s.mem.read (s.i.toNat + r)).getLsbD (7 - c) = true ∧
            Framebuffer.cell s.fb (x0 + c) (y0 + r) = true) ∧
          t.presents = t.fb :: s.presents ∧ OnlyChanges [.fb, .reg vf, .presents] s t) ∧
      (∀ a : Addr, s.pc = a + 2#16 → 0 < rows → 4096 < s.i.toNat + rows →
        exec (.drw x y n) s =
          .next { s with fault := some (.memoryOutOfBounds (0xD#4 ++ x ++ y ++ n) a (max s.i.toNat 4096)) })

/-- The snapshot handed to the backend has 2048 elements, cell `(x, y)` at `y * 64 + x` (10_state.md R27; the spec's own decision
D18, log entry 6). -/
def Obligations.SnapshotIsRowMajor : Prop :=
  ∀ f : Framebuffer, (Framebuffer.snapshot f).length = 2048 ∧
    ∀ x y, x < 64 → y < 32 → (Framebuffer.snapshot f)[y * 64 + x]? = some (Framebuffer.cell f x y)

/-! ## Keypad and timers (45_keypad_timers.md) -/

/-- R160, R161: the skips on a key, whatever the answer of the keypad (the environment's, log entry 18); a key code above 0xF faults
and changes nothing else. The opcodes EX9E and EXA1 are the spec's from general knowledge (G2; log entry 13), the fault's precision
and address its own decision D10 (log entry 34). -/
def Obligations.SkipsOnKey : Prop :=
  ∀ x : RegIx, decode (0xE#4 ++ x ++ 0x9E#8) = .ok (.skp x) ∧ decode (0xE#4 ++ x ++ 0xA1#8) = .ok (.sknp x) ∧
    (∀ s : State, (s.reg x).toNat ≤ 0xF →
      (∃ t, exec (.skp x) s = .next t ∧ OnlyChanges [.pc] s t ∧
        t.pc = (if s.input.keysDown.getLsbD (s.reg x).toNat = true then s.pc + 2#16 else s.pc)) ∧
      (∃ t, exec (.sknp x) s = .next t ∧ OnlyChanges [.pc] s t ∧
        t.pc = (if s.input.keysDown.getLsbD (s.reg x).toNat = true then s.pc else s.pc + 2#16))) ∧
    (∀ (s : State) (a : Addr), s.pc = a + 2#16 → 0xF < (s.reg x).toNat →
      exec (.skp x) s = .next { s with fault := some (.invalidRegister (0xE#4 ++ x ++ 0x9E#8) a (s.reg x)) } ∧
      exec (.sknp x) s = .next { s with fault := some (.invalidRegister (0xE#4 ++ x ++ 0xA1#8) a (s.reg x)) })

/-- R162: LD Vx, K takes the pending key, or steps `PC` back to the instruction (a press, the spec's own decision D27; log entry
33). -/
def Obligations.WaitForKey : Prop :=
  ∀ x : RegIx, decode (0xF#4 ++ x ++ 0x0A#8) = .ok (.ldVxK x) ∧
    (∀ (s : State) (a : Addr), s.pc = a + 2#16 → s.input.pendingKey = none →
      ∃ t, exec (.ldVxK x) s = .next t ∧ t.pc = a ∧ OnlyChanges [.pc] s t) ∧
    (∀ (s : State) (k : Nibble), s.input.pendingKey = some k →
      ∃ t, exec (.ldVxK x) s = .next t ∧ (t.reg x).toNat = k.toNat ∧ OnlyChanges [.reg x] s t)

/-- R163, R164, R165: the moves between a register and a timer. The opcodes FX07, FX15 and FX18 are the spec's from general
knowledge (G2; log entry 13). -/
def Obligations.TimerMoves : Prop :=
  ∀ x : RegIx, decode (0xF#4 ++ x ++ 0x07#8) = .ok (.ldVxDt x) ∧ decode (0xF#4 ++ x ++ 0x15#8) = .ok (.ldDtVx x) ∧
    decode (0xF#4 ++ x ++ 0x18#8) = .ok (.ldStVx x) ∧
    ∀ s : State,
      (∃ t, exec (.ldVxDt x) s = .next t ∧ t.reg x = s.dt ∧ OnlyChanges [.reg x] s t) ∧
      (∃ t, exec (.ldDtVx x) s = .next t ∧ t.dt = s.reg x ∧ OnlyChanges [.dt] s t) ∧
      (∃ t, exec (.ldStVx x) s = .next t ∧ t.st = s.reg x ∧ OnlyChanges [.st] s t)

/-! ## Memory transfer and sprite address (46_memory_transfer.md) -/

/-- R170: LD B stores the three decimal digits at `I`, `I+1`, `I+2` and nothing else; out of range it faults and changes nothing
else, the spec's own decision D5 (log entry 24). -/
def Obligations.BcdStoresDigits : Prop :=
  ∀ x : RegIx, decode (0xF#4 ++ x ++ 0x33#8) = .ok (.ldB x) ∧
    (∀ s : State, s.mem.wf = true → s.i.toNat + 2 < 4096 →
      ∃ t, exec (.ldB x) s = .next t ∧
        (t.mem.read s.i.toNat).toNat = (s.reg x).toNat / 100 ∧
        (t.mem.read (s.i.toNat + 1)).toNat = (s.reg x).toNat / 10 % 10 ∧
        (t.mem.read (s.i.toNat + 2)).toNat = (s.reg x).toNat % 10 ∧
        (∀ a, a < s.i.toNat ∨ s.i.toNat + 3 ≤ a → t.mem.read a = s.mem.read a) ∧ OnlyChanges [.mem] s t) ∧
    (∀ (s : State) (a : Addr), s.pc = a + 2#16 → 4096 ≤ s.i.toNat + 2 →
      exec (.ldB x) s = .next { s with fault := some (.memoryOutOfBounds (0xF#4 ++ x ++ 0x33#8) a (max s.i.toNat 4096)) })

/-- R171: LD [I], Vx stores `V0 .. Vx` at `I .. I+x`, nothing else, and leaves `I` (MEM_TRANSFER_INCREMENTS_I = false); out of
range it faults and changes nothing else, the spec's own decision D5 (log entry 24). -/
def Obligations.StoreRegisters : Prop :=
  ∀ x : RegIx, decode (0xF#4 ++ x ++ 0x55#8) = .ok (.ldMemVx x) ∧
    (∀ s : State, s.mem.wf = true → s.i.toNat + x.toNat < 4096 →
      ∃ t, exec (.ldMemVx x) s = .next t ∧
        (∀ z : RegIx, z.toNat ≤ x.toNat → t.mem.read (s.i.toNat + z.toNat) = s.reg z) ∧
        (∀ a, a < s.i.toNat ∨ s.i.toNat + x.toNat < a → t.mem.read a = s.mem.read a) ∧ OnlyChanges [.mem] s t) ∧
    (∀ (s : State) (a : Addr), s.pc = a + 2#16 → 4096 ≤ s.i.toNat + x.toNat →
      exec (.ldMemVx x) s =
        .next { s with fault := some (.memoryOutOfBounds (0xF#4 ++ x ++ 0x55#8) a (max s.i.toNat 4096)) })

/-- R172: LD Vx, [I] loads `V0 .. Vx` from `I .. I+x`, leaves the other registers and `I`; out of range it faults and changes
nothing else, the spec's own decision D5 (log entry 24). -/
def Obligations.LoadRegisters : Prop :=
  ∀ x : RegIx, decode (0xF#4 ++ x ++ 0x65#8) = .ok (.ldVxMem x) ∧
    (∀ s : State, s.i.toNat + x.toNat < 4096 →
      ∃ t, exec (.ldVxMem x) s = .next t ∧
        (∀ z : RegIx, z.toNat ≤ x.toNat → t.reg z = s.mem.read (s.i.toNat + z.toNat)) ∧
        (∀ z : RegIx, x.toNat < z.toNat → t.reg z = s.reg z) ∧
        OnlyChanges (((List.range 16).map (BitVec.ofNat 4)).map Part.reg) s t) ∧
    (∀ (s : State) (a : Addr), s.pc = a + 2#16 → 4096 ≤ s.i.toNat + x.toNat →
      exec (.ldVxMem x) s =
        .next { s with fault := some (.memoryOutOfBounds (0xF#4 ++ x ++ 0x65#8) a (max s.i.toNat 4096)) })

/-- The round trip of 46_memory_transfer.md R172 and 95_test_vectors.md W4: a load of the registers a store saved restores them,
whatever the registers held in between, and `I` is as before. -/
def Obligations.LoadAfterStoreRestores : Prop :=
  ∀ (x : RegIx) (s t u : State), s.mem.wf = true → s.i.toNat + x.toNat < 4096 → exec (.ldMemVx x) s = .next t →
    u.mem = t.mem → u.i = t.i →
    ∃ v, exec (.ldVxMem x) u = .next v ∧ v.i = s.i ∧ ∀ z : RegIx, z.toNat ≤ x.toNat → v.reg z = s.reg z

/-- R173: LD F sets `I` to the glyph of the low nibble; the glyph order is the spec's own decision D17 (log entry 7). -/
def Obligations.GlyphAddress : Prop :=
  ∀ x : RegIx, decode (0xF#4 ++ x ++ 0x29#8) = .ok (.ldF x) ∧
    ∀ s : State, ∃ t, exec (.ldF x) s = .next t ∧ t.i.toNat = 0x050 + 5 * ((s.reg x).toNat % 16) ∧ OnlyChanges [.i] s t

/-! ## The step (70_reset_and_hazards.md, 20_memory.md) -/

/-- A cycle that fetches the word of an instruction runs that instruction, after the tick and with `PC` past the word, and then
the rest of the cycle (70_reset_and_hazards.md R245). -/
def Obligations.StepRunsDecodedInstruction : Prop :=
  ∀ (s : State) (i : Instr), Fetches s → decode (s.mem.read s.pc.toNat ++ s.mem.read (s.pc.toNat + 1)) = .ok i →
    OnlyChanges [.pc, .dt, .st] s s.atExecute ∧ s.atExecute.pc = s.pc + 2#16 ∧
    (∀ t, exec i s.atExecute = .next t → step s = .next t.finishCycle) ∧
    (∃ t, exec i s.atExecute = .next t)

/-- R57: the fetch, and the fault at and above 0xFFE, which leaves `PC`; the bound is the spec's own decision D6 (log entry 10). -/
def Obligations.FetchReadsOrFaults : Prop :=
  (∀ s : State, s.pc.toNat < 0xFFE →
    s.fetch = .ok (s.mem.read s.pc.toNat ++ s.mem.read (s.pc.toNat + 1), { s with pc := s.pc + 2#16 })) ∧
  (∀ s : State, 0xFFE ≤ s.pc.toNat → s.fetch = .error (.programCounterOutOfBounds s.pc)) ∧
  (∀ s : State, Running s → s.gateOpen = true → 0xFFE ≤ s.pc.toNat →
    ∃ t, step s = .next t ∧ t.fault = some (.programCounterOutOfBounds s.pc) ∧ OnlyChanges [.fault, .dt, .st] s t)

/-- A cycle that fetches a word outside the table enters InvalidOpcode with the word and its address, after the tick and the
advance of `PC`, and nothing else of the cycle happens (30_encoding.md R82; 60_exceptions.md R201, R202, R203; precision and address
are the spec's own decision D10, log entry 34). -/
def Obligations.InvalidOpcodeEndsTheCycle : Prop :=
  ∀ (s : State) (w : Word), Fetches s → w = s.mem.read s.pc.toNat ++ s.mem.read (s.pc.toNat + 1) →
    decode w = .error (.invalidOpcode w) →
    ∃ t, step s = .next t ∧ t.fault = some (.invalidOpcode w s.pc) ∧ t.pc = s.pc + 2#16 ∧
      OnlyChanges [.fault, .pc, .dt, .st] s t

/-- After `quit`, and after a fault, there is no further step (60_exceptions.md R202, R204, R220; 10_state.md R33). -/
def Obligations.StoppedMachineStaysStopped : Prop :=
  (∀ s : State, s.quit = true → step s = .fault .quit) ∧
  (∀ (s : State) (f : FaultRecord), s.quit = false → s.fault = some f → step s = .fault (.stopped f)) ∧
  (∀ s : State, Running s → ∃ t, step s = .next t)

/-- The timers over a step: each goes down by one and never below 0 where the gate is open and the tick is drawn, and holds
otherwise, unless the instruction loads that very timer or RESET is applied (60_exceptions.md R209; 70_reset_and_hazards.md R245;
that they hold while the gate is closed is the spec's own decision D26, log entry 12). -/
def Obligations.TimersOverAStep : Prop :=
  ∀ s t : State, step s = .next t → (∀ g, s.input.poll = .signals g → g.reset = false ∨ g.quit = true) →
    ((∀ x, decode s.nextWord ≠ .ok (.ldDtVx x)) →
      t.dt.toNat = s.dt.toNat - (if s.gateOpen = true ∧ s.input.tick = true then 1 else 0)) ∧
    ((∀ x, decode s.nextWord ≠ .ok (.ldStVx x)) →
      t.st.toNat = s.st.toNat - (if s.gateOpen = true ∧ s.input.tick = true then 1 else 0))

/-- A cycle with the gate closed is the rest of the cycle alone: no tick, no fetch, no execution, but the step disarm and the poll
with its signals all the same (70_reset_and_hazards.md R245, R246; 60_exceptions.md R209, R216, R220; that no tick happens is the
spec's own decision D26, log entry 12). So only the run-state, the fault record, the presents and the draws may change, unless
RESET is applied. -/
def Obligations.ClosedGateHoldsTheMachine : Prop :=
  ∀ s : State, Running s → (s.paused = true ∨ (s.stepMode = true ∧ s.stepArmed = false)) →
    step s = .next s.finishCycle ∧
    ((∀ g, s.input.poll = .signals g → g.reset = false ∨ g.quit = true) →
      OnlyChanges [.paused, .stepMode, .stepArmed, .quit, .fault, .presents, .draws] s s.finishCycle)

/-- Cycle steps 4 and 5 where the poll and every draw they request succeed: the step disarm, then the signals in the order of R215. The
presents are listed newest first (60_exceptions.md R215 to R220; 70_reset_and_hazards.md R243). The order, the disarm, and that
RESET keeps memory and the debug flags are the spec's own decisions D14, D22, D11, D12 (log entries 28, 31, 11, 27). -/
def Obligations.DisarmThenSignalsInOrder : Prop :=
  ∀ (s : State) (g : Signals), s.fault = none → s.input.poll = .signals g →
    (s.stepMode = true → s.stepArmed = true → DrawSucceeds s .stepDisarm) →
    (g.quit = false → s.debugEnabled = true → g.pause = true → DrawSucceeds s .pause) →
    (g.quit = false → s.debugEnabled = true → g.toggleStepMode = true → DrawSucceeds s .toggleStepMode) →
    (g.quit = false → g.reset = true → DrawSucceeds s .reset) →
    ∃ t, s.finishCycle = t ∧ t.fault = none ∧ t.inputs = s.inputs.tail ∧ t.cycle = s.cycle + 1 ∧
      (g.quit = true →
        t.quit = true ∧ t.stepArmed = (s.stepArmed && !s.stepMode) ∧
        t.presents = (if s.stepMode = true ∧ s.stepArmed = true then [s.fb] else []) ++ s.presents ∧
        OnlyChanges [.quit, .stepArmed, .presents, .draws] s t) ∧
      (g.quit = false →
        t.paused = (s.paused ^^ (g.pause && s.debugEnabled)) ∧
        t.stepMode = (s.stepMode ^^ (g.toggleStepMode && s.debugEnabled)) ∧
        t.stepArmed = ((s.stepArmed && !s.stepMode) || g.advanceStep) ∧ t.quit = s.quit ∧
        t.debugEnabled = s.debugEnabled ∧
        t.presents = (if g.reset = true then [t.fb] else []) ++
          (if g.toggleStepMode = true ∧ s.debugEnabled = true then [s.fb] else []) ++
          (if g.pause = true ∧ s.debugEnabled = true then [s.fb] else []) ++
          (if s.stepMode = true ∧ s.stepArmed = true then [s.fb] else []) ++ s.presents ∧
        (g.reset = false → OnlyChanges [.paused, .stepMode, .stepArmed, .presents, .draws] s t) ∧
        (g.reset = true → (∀ x, t.reg x = 0#8) ∧ t.pc = 0x200#16 ∧ t.i = 0#16 ∧ t.stack = [] ∧ t.dt = 0#8 ∧ t.st = 0#8 ∧
          (∀ x y, x < 64 → y < 32 → Framebuffer.cell t.fb x y = false) ∧ ∀ a, t.mem.read a = s.mem.read a))

/-- R243 where the present's draw succeeds, with memory as the spec's decision D11 (KeepAll, log entry 11) leaves it: RESET
zeroes registers, `I`, stack, timers and framebuffer, sets `PC` to 0x200, writes no memory byte, leaves the debug flags and
`quit`, and presents once. -/
def Obligations.ResetTransitionClearsAllButMemory : Prop :=
  ∀ s : State, DrawSucceeds s .reset →
    ∃ t, s.resetTransition = t ∧ (∀ x, t.reg x = 0#8) ∧ t.i = 0#16 ∧ t.pc = 0x200#16 ∧ t.stack = [] ∧ t.dt = 0#8 ∧ t.st = 0#8 ∧
      (∀ x y, x < 64 → y < 32 → Framebuffer.cell t.fb x y = false) ∧ t.presents = t.fb :: s.presents ∧
      (∀ a, t.mem.read a = s.mem.read a) ∧ t.paused = s.paused ∧ t.stepMode = s.stepMode ∧ t.stepArmed = s.stepArmed ∧
      t.debugEnabled = s.debugEnabled ∧ t.quit = s.quit ∧ t.fault = s.fault

/-- R240, R241, R207: construction. An unreadable ROM and one longer than 3584 bytes end the run before any cycle, and so does a
backend that failed to initialize; else every register is 0, `PC` is 0x200, the stack is empty, the framebuffer clear, memory holds
the font, the ROM and zero elsewhere, the run-state is running and no present is emitted. That the ROM is judged before the backend
is the model's choice (log entry 16); font, running start and no present are the spec's own D17, D31, D29 (log entries 7, 27, 30).
The first clause is the table of 20_memory.md R52, glyph by glyph. -/
def Obligations.ConstructionOrLoadError : Prop :=
  (Params.font =
    ([[0xF0, 0x90, 0x90, 0x90, 0xF0], [0x20, 0x60, 0x20, 0x20, 0x70], [0xF0, 0x10, 0xF0, 0x80, 0xF0],
      [0xF0, 0x10, 0xF0, 0x10, 0xF0], [0x90, 0x90, 0xF0, 0x10, 0x10], [0xF0, 0x80, 0xF0, 0x10, 0xF0],
      [0xF0, 0x80, 0xF0, 0x90, 0xF0], [0xF0, 0x10, 0x20, 0x40, 0x40], [0xF0, 0x90, 0xF0, 0x90, 0xF0],
      [0xF0, 0x90, 0xF0, 0x10, 0xF0], [0xF0, 0x90, 0xF0, 0x90, 0x90], [0xE0, 0x90, 0xE0, 0x90, 0xE0],
      [0xF0, 0x80, 0x80, 0x80, 0xF0], [0xE0, 0x90, 0x90, 0x90, 0xE0], [0xF0, 0x80, 0xF0, 0x80, 0xF0],
      [0xF0, 0x80, 0xF0, 0x80, 0x80]] : List (List Byte)).flatten) ∧
  (∀ l : Launch, l.rom = .unreadable → construct l = .fault (.stopped .romUnreadable)) ∧
  (∀ (l : Launch) (rom : List Byte), l.rom = .bytes rom → 3584 < rom.length →
    construct l = .fault (.stopped (.romTooLarge rom.length))) ∧
  (∀ (l : Launch) (rom : List Byte), l.rom = .bytes rom → rom.length ≤ 3584 → l.backendReady = false →
    construct l = .fault (.stopped .backendError)) ∧
  (∀ (l : Launch) (rom : List Byte), l.rom = .bytes rom → rom.length ≤ 3584 → l.backendReady = true →
    ∃ t, construct l = .next t ∧ (∀ x, t.reg x = 0#8) ∧ t.i = 0#16 ∧ t.pc = 0x200#16 ∧ t.stack = [] ∧ t.dt = 0#8 ∧
      t.st = 0#8 ∧ (∀ x y, x < 64 → y < 32 → Framebuffer.cell t.fb x y = false) ∧ t.paused = false ∧ t.stepMode = false ∧
      t.stepArmed = false ∧ t.quit = false ∧ t.debugEnabled = l.debugEnabled ∧ t.fault = none ∧ t.presents = [] ∧
      (∀ k, (h : k < rom.length) → t.mem.read (0x200 + k) = rom[k]) ∧
      (∀ k, (h : k < Params.font.length) → t.mem.read (0x050 + k) = Params.font[k]) ∧
      (∀ a, a < 0x050 ∨ (0x0A0 ≤ a ∧ a < 0x200) ∨ 0x200 + rom.length ≤ a → t.mem.read a = 0#8))

/-- A poll or a draw that fails ends the run with BackendError at that place: what the cycle wrote before it stands, the present is
listed, and nothing of the cycle follows (60_exceptions.md R207, the spec's own decision D28; the place is the model's choice, log
entry 15). The first clause says the last of these for every fault: the rest of the cycle leaves a faulted state alone, so no step
is disarmed and no signal applied (R202, R204, R205). Then one clause for each place in the order of the cycle: CLS, DRW, the step disarm, which leaves the step armed (R219), the
poll, PAUSE, TOGGLE_STEP_MODE, RESET (R215 to R217; 70_reset_and_hazards.md R243). In each the draws before it succeed. -/
def Obligations.BackendFailureEndsTheRun : Prop :=
  (∀ (s : State) (f : FaultRecord), s.fault = some f → s.finishCycle = s) ∧
  (∀ s : State, .instruction ∈ s.input.failing →
    ∃ t, exec .cls s = .next t ∧ t.fault = some .backendError ∧ (∀ x y, x < 64 → y < 32 → Framebuffer.cell t.fb x y = false) ∧
      t.presents = t.fb :: s.presents ∧ OnlyChanges [.fb, .presents, .fault] s t) ∧
  (∀ (s : State) (x y : RegIx) (n : Nibble) (x0 y0 rows cols : Nat), .instruction ∈ s.input.failing →
    x0 = (s.reg x).toNat % 64 → y0 = (s.reg y).toNat % 32 → rows = min n.toNat (32 - y0) → cols = min 8 (64 - x0) →
    (rows = 0 ∨ s.i.toNat + rows ≤ 4096) →
    ∃ t, exec (.drw x y n) s = .next t ∧ t.fault = some .backendError ∧
      (∀ u v, u < 64 → v < 32 → Framebuffer.cell t.fb u v =
        (Framebuffer.cell s.fb u v ^^
          (decide (x0 ≤ u ∧ u < x0 + cols ∧ y0 ≤ v ∧ v < y0 + rows) &&
            (s.mem.read (s.i.toNat + (v - y0))).getLsbD (7 - (u - x0))))) ∧
      (t.reg vf = 0#8 ∨ t.reg vf = 1#8) ∧
      (t.reg vf = 1#8 ↔ ∃ r c, r < rows ∧ c < cols ∧ (s.mem.read (s.i.toNat + r)).getLsbD (7 - c) = true ∧
        Framebuffer.cell s.fb (x0 + c) (y0 + r) = true) ∧
      t.presents = t.fb :: s.presents ∧ OnlyChanges [.fb, .reg vf, .presents, .fault] s t) ∧
  (∀ s : State, s.fault = none → s.stepMode = true → s.stepArmed = true → .stepDisarm ∈ s.input.failing →
    s.finishCycle = { s with presents := s.fb :: s.presents, fault := some .backendError }) ∧
  (∀ s : State, s.fault = none → (s.stepMode = true → s.stepArmed = true → DrawSucceeds s .stepDisarm) →
    ∀ (armed : Bool) (shown : List Framebuffer), armed = (s.stepArmed && !s.stepMode) →
      shown = (if s.stepMode = true ∧ s.stepArmed = true then [s.fb] else []) ++ s.presents →
      (s.input.poll = .failed →
        s.finishCycle = { s with stepArmed := armed, presents := shown, fault := some .backendError }) ∧
      (∀ g : Signals, s.input.poll = .signals g → g.quit = false →
        (s.debugEnabled = true → g.pause = true → .pause ∈ s.input.failing →
          s.finishCycle = { s with stepArmed := armed, paused := !s.paused, presents := s.fb :: shown,
                                   fault := some .backendError }) ∧
        (s.debugEnabled = true → (g.pause = true → DrawSucceeds s .pause) → g.toggleStepMode = true →
          .toggleStepMode ∈ s.input.failing →
          s.finishCycle = { s with stepArmed := armed, paused := s.paused ^^ g.pause, stepMode := !s.stepMode,
                                   presents := s.fb :: ((if g.pause = true then [s.fb] else []) ++ shown),
                                   fault := some .backendError }) ∧
        ((s.debugEnabled = true → g.pause = true → DrawSucceeds s .pause) →
          (s.debugEnabled = true → g.toggleStepMode = true → DrawSucceeds s .toggleStepMode) → g.reset = true →
          .reset ∈ s.input.failing →
          ∃ t, s.finishCycle = t ∧ t.fault = some .backendError ∧ (∀ x, t.reg x = 0#8) ∧ t.i = 0#16 ∧ t.pc = 0x200#16 ∧
            t.stack = [] ∧ t.dt = 0#8 ∧ t.st = 0#8 ∧ (∀ x y, x < 64 → y < 32 → Framebuffer.cell t.fb x y = false) ∧
            (∀ a, t.mem.read a = s.mem.read a) ∧ t.paused = (s.paused ^^ (g.pause && s.debugEnabled)) ∧
            t.stepMode = (s.stepMode ^^ (g.toggleStepMode && s.debugEnabled)) ∧ t.stepArmed = (armed || g.advanceStep) ∧
            t.quit = s.quit ∧ t.debugEnabled = s.debugEnabled ∧ t.inputs = s.inputs ∧ t.cycle = s.cycle ∧
            t.presents = t.fb :: ((if g.toggleStepMode = true ∧ s.debugEnabled = true then [s.fb] else []) ++
              (if g.pause = true ∧ s.debugEnabled = true then [s.fb] else []) ++ shown))))

/-- In step mode one armed step executes one instruction: a cycle that is not paused executes the instruction fetched, and after it,
if the poll neither arms again nor toggles step mode, the gate is closed (60_exceptions.md R218, R219). The gate is closed after a
paused cycle too, which executes nothing and disarms, the spec's own decision D22 (log entry 31). -/
def Obligations.ArmedStepRunsOnce : Prop :=
  ∀ (s t : State) (g : Signals), s.stepMode = true → s.stepArmed = true → s.input.poll = .signals g →
    g.advanceStep = false → g.toggleStepMode = false → step s = .next t → t.fault = none →
    t.gateOpen = false ∧
    (s.paused = false →
      ∃ i u, decode s.nextWord = .ok i ∧ exec i s.atExecute = .next u ∧ t = u.finishCycle) ∧
    (s.paused = true → t = s.finishCycle)

/-- FX0A replays: with no pending key, a quiet poll and step mode off, a cycle leaves `PC` at the instruction and every register as it was, and
the next fetch reads the same word; a poll with QUIT ends the run in that very cycle (70_reset_and_hazards.md R252). -/
def Obligations.WaitForKeyReplays : Prop :=
  ∀ (s : State) (x : RegIx) (g : Signals), Fetches s → decode s.nextWord = .ok (.ldVxK x) → s.input.pendingKey = none →
    s.stepMode = false → s.input.poll = .signals g → g.reset = false → g.pause = false →
    g.toggleStepMode = false → g.advanceStep = false →
    ∃ t, step s = .next t ∧ t.pc = s.pc ∧ t.nextWord = s.nextWord ∧ t.fault = none ∧ t.quit = g.quit ∧
      OnlyChanges [.dt, .st, .quit, .draws] s t

/-! ## Memory -/

/-- A read returns the last value written, and a write changes no other byte (20_memory.md R54, R58). -/
def Obligations.MemoryReadsLastWrite : Prop :=
  ∀ (m : Memory) (a : Nat) (v : Byte), m.wf = true →
    (a < 4096 → (m.write a v).read? a = some v) ∧ (4096 ≤ a → m.read? a = none ∧ m.write a v = m) ∧
    (∀ c, c ≠ a → (m.write a v).read? c = m.read? c)

/-- Two canonical memories that read alike everywhere are equal data: the model's own form of memory (log entry 21). -/
def Obligations.CanonicalMemoriesAreEqual : Prop :=
  ∀ m k : Memory, m.wf = true → k.wf = true → (∀ a, a < 4096 → m.read a = k.read a) → m = k

/-- A store is seen by the next fetch of the address (20_memory.md R61). -/
def Obligations.FetchSeesStoredBytes : Prop :=
  ∀ (x : RegIx) (s t u : State), s.mem.wf = true → 1 ≤ x.toNat → s.i.toNat + x.toNat < 4096 →
    exec (.ldMemVx x) s = .next t → u.mem = t.mem → u.pc = s.i → u.nextWord = s.reg 0#4 ++ s.reg 1#4

/-! ## Rules of the whole machine -/

/-- Every instruction completes with a next state, in every state: none is refused and none stops outside fault entry. -/
def Obligations.EveryInstructionAnswersNext : Prop :=
  ∀ (i : Instr) (s : State), ∃ t, exec i s = .next t

/-- Faults are precise: whichever instruction raises a fault of the program, nothing but the fault record differs (60_exceptions.md
R203, the spec's own decision D10; log entry 34). -/
def Obligations.FaultsArePrecise : Prop :=
  ∀ (i : Instr) (s t : State) (f : FaultRecord), s.fault = none → exec i s = .next t → t.fault = some f → f ≠ .backendError →
    t = { s with fault := some f }

/-- Which instruction can raise which fault, when, and what it records (60_exceptions.md R201, R205; the
recorded address and MemoryOutOfBounds are the spec's own decisions D10, D5, log entries 34, 24). -/
def Obligations.FaultsByInstruction : Prop :=
  ∀ (i : Instr) (s t : State) (a : Addr) (f : FaultRecord), s.pc = a + 2#16 → s.fault = none → exec i s = .next t →
    t.fault = some f →
    (∃ nnn, i = .call nnn ∧ 16 ≤ s.stack.length ∧ f = .stackOverflow (encode i) a) ∨
    (i = .ret ∧ s.stack = [] ∧ f = .stackUnderflow (encode i) a) ∨
    (∃ x, (i = .skp x ∨ i = .sknp x) ∧ 0xF < (s.reg x).toNat ∧ f = .invalidRegister (encode i) a (s.reg x)) ∨
    (∃ x y n, i = .drw x y n ∧ 4096 < s.i.toNat + n.toNat ∧ f = .memoryOutOfBounds (encode i) a (max s.i.toNat 4096)) ∨
    (∃ x, i = .ldB x ∧ 4096 ≤ s.i.toNat + 2 ∧ f = .memoryOutOfBounds (encode i) a (max s.i.toNat 4096)) ∨
    (∃ x, (i = .ldMemVx x ∨ i = .ldVxMem x) ∧ 4096 ≤ s.i.toNat + x.toNat ∧
      f = .memoryOutOfBounds (encode i) a (max s.i.toNat 4096)) ∨
    ((i = .cls ∨ ∃ x y n, i = .drw x y n) ∧ .instruction ∈ s.input.failing ∧ f = .backendError)

/-- The report of a fault of the program names the offender: the address the cycle fetched from and the word it fetched; for
ProgramCounterOutOfBounds the `PC` and no word (60_exceptions.md R201, R202; the spec's own decision D10, log entry 34). -/
def Obligations.ReportNamesTheOffender : Prop :=
  ∀ (s t : State) (f : FaultRecord), step s = .next t → t.fault = some f → f ≠ .backendError →
    f.reportedPc = some s.pc ∧ f.reportedWord = (if s.pc.toNat < 0xFFE then some s.nextWord else none)

/-- `VF` changes only by a flag-producing instruction or as a named destination (10_state.md R22). -/
def Obligations.WhoWritesVF : Prop :=
  ∀ (i : Instr) (s t : State), exec i s = .next t → t.reg vf ≠ s.reg vf →
    (∃ x y, i = .addReg x y ∨ i = .sub x y ∨ i = .shr x y ∨ i = .subn x y ∨ i = .shl x y) ∨ (∃ x y n, i = .drw x y n) ∨
    (∃ nn, i = .ldImm vf nn ∨ i = .addImm vf nn ∨ i = .rnd vf nn) ∨
    (∃ y, i = .ldReg vf y ∨ i = .orReg vf y ∨ i = .andReg vf y ∨ i = .xorReg vf y) ∨
    i = .ldVxK vf ∨ i = .ldVxDt vf ∨ i = .ldVxMem vf

/-- The stack is reached by CALL and RET only, the framebuffer is changed by CLS and DRW only, memory by LD_B and LD_MEM_VX only,
the timers by LD_DT_VX and LD_ST_VX only, and `I` by LD_I, ADD_I and LD_F only (10_state.md R23, R25, R27, R28; 20_memory.md R53).
That CLS and DRW are the instructions that present is the spec's own decision D20 (44_display.md R152; log entry 30), that the stack
is no part of memory its decision D25 (log entry 32). -/
def Obligations.WhoWritesWhat : Prop :=
  ∀ (i : Instr) (s t : State), exec i s = .next t →
    (t.stack ≠ s.stack → i = .ret ∨ ∃ nnn, i = .call nnn) ∧
    (t.fb ≠ s.fb ∨ t.presents ≠ s.presents → i = .cls ∨ ∃ x y n, i = .drw x y n) ∧
    ((∃ a, t.mem.read a ≠ s.mem.read a) → ∃ x, i = .ldB x ∨ i = .ldMemVx x) ∧
    (t.dt ≠ s.dt → ∃ x, i = .ldDtVx x) ∧ (t.st ≠ s.st → ∃ x, i = .ldStVx x) ∧
    (t.i ≠ s.i → (∃ nnn, i = .ldI nnn) ∨ ∃ x, i = .addI x ∨ i = .ldF x)

/-- No instruction writes the run-state (10_state.md R31) or the launch configuration, and none takes a draw of a later cycle. -/
def Obligations.NoInstructionWritesRunState : Prop :=
  ∀ (i : Instr) (s t : State), exec i s = .next t →
    t.paused = s.paused ∧ t.stepMode = s.stepMode ∧ t.stepArmed = s.stepArmed ∧ t.quit = s.quit ∧
    t.debugEnabled = s.debugEnabled ∧ t.romLen = s.romLen ∧ t.inputs = s.inputs ∧ t.cycle = s.cycle

/-- No instruction reads the run-state (10_state.md R30, R31), `quit` and the debug flag included: with another run-state it does the
same to everything else. -/
def Obligations.NoInstructionReadsRunState : Prop :=
  ∀ (i : Instr) (s t : State) (p m r d q : Bool), exec i s = .next t →
    exec i { s with paused := p, stepMode := m, stepArmed := r, debugEnabled := d, quit := q } =
      .next { t with paused := p, stepMode := m, stepArmed := r, debugEnabled := d, quit := q }

/-- The environment's draws reach RND, SKP, SKNP and LD_VX_K only, and the failure of a draw CLS and DRW only: every other
instruction does the same whatever the environment answers (20_memory.md R62; 60_exceptions.md R211, R213). -/
def Obligations.DrawsReachNoOtherInstruction : Prop :=
  ∀ (i : Instr) (s t : State) (l : List CycleInput) (n : Nat),
    (∀ x nn, i ≠ .rnd x nn) → (∀ x, i ≠ .skp x ∧ i ≠ .sknp x ∧ i ≠ .ldVxK x) → i ≠ .cls → (∀ x y n, i ≠ .drw x y n) →
    exec i s = .next t → exec i { s with inputs := l, cycle := n } = .next { t with inputs := l, cycle := n }

/-! ## Invariant -/

/-- Every step keeps the invariant, from every state that meets it (10_state.md R25; 70_reset_and_hazards.md R246). -/
def Obligations.StepKeepsInv : Prop :=
  ∀ s t : State, Inv s → step s = .next t → Inv t

/-- The invariant holds at reset, and after construction from any ROM. -/
def Obligations.InvAtStart : Prop :=
  Inv State.reset ∧ ∀ (l : Launch) (t : State), construct l = .next t → Inv t

/-- Without `debug_enabled` the gate is always open (70_reset_and_hazards.md R246). -/
def Obligations.GateOpenWithoutDebug : Prop :=
  ∀ s : State, Inv s → s.debugEnabled = false → s.gateOpen = true
end

