-- ==== Sys2Proof/Laws/State.lean ====
section
/-!
SUPPORT. What each named update of the state leaves in each field, so that no proof unfolds a record update; and the read of one
register after each update.
-/

namespace Sys2Proof.Machine

variable (s : State)

/-! ## setReg -/

@[simp] theorem State.setReg_v (x : RegIx) (b : Byte) : (s.setReg x b).v = s.v.set x.toNat b x.isLt := rfl
@[simp] theorem State.setReg_i (x : RegIx) (b : Byte) : (s.setReg x b).i = s.i := rfl
@[simp] theorem State.setReg_pc (x : RegIx) (b : Byte) : (s.setReg x b).pc = s.pc := rfl
@[simp] theorem State.setReg_stack (x : RegIx) (b : Byte) : (s.setReg x b).stack = s.stack := rfl
@[simp] theorem State.setReg_mem (x : RegIx) (b : Byte) : (s.setReg x b).mem = s.mem := rfl
@[simp] theorem State.setReg_fb (x : RegIx) (b : Byte) : (s.setReg x b).fb = s.fb := rfl
@[simp] theorem State.setReg_dt (x : RegIx) (b : Byte) : (s.setReg x b).dt = s.dt := rfl
@[simp] theorem State.setReg_st (x : RegIx) (b : Byte) : (s.setReg x b).st = s.st := rfl
@[simp] theorem State.setReg_paused (x : RegIx) (b : Byte) : (s.setReg x b).paused = s.paused := rfl
@[simp] theorem State.setReg_stepMode (x : RegIx) (b : Byte) : (s.setReg x b).stepMode = s.stepMode := rfl
@[simp] theorem State.setReg_stepArmed (x : RegIx) (b : Byte) : (s.setReg x b).stepArmed = s.stepArmed := rfl
@[simp] theorem State.setReg_quit (x : RegIx) (b : Byte) : (s.setReg x b).quit = s.quit := rfl
@[simp] theorem State.setReg_debugEnabled (x : RegIx) (b : Byte) : (s.setReg x b).debugEnabled = s.debugEnabled := rfl
@[simp] theorem State.setReg_fault (x : RegIx) (b : Byte) : (s.setReg x b).fault = s.fault := rfl
@[simp] theorem State.setReg_romLen (x : RegIx) (b : Byte) : (s.setReg x b).romLen = s.romLen := rfl
@[simp] theorem State.setReg_presents (x : RegIx) (b : Byte) : (s.setReg x b).presents = s.presents := rfl
@[simp] theorem State.setReg_inputs (x : RegIx) (b : Byte) : (s.setReg x b).inputs = s.inputs := rfl
@[simp] theorem State.setReg_cycle (x : RegIx) (b : Byte) : (s.setReg x b).cycle = s.cycle := rfl
@[simp] theorem State.setReg_input (x : RegIx) (b : Byte) : (s.setReg x b).input = s.input := rfl

/-! ## setI -/

@[simp] theorem State.setI_v (a : Addr) : (s.setI a).v = s.v := rfl
@[simp] theorem State.setI_i (a : Addr) : (s.setI a).i = a := rfl
@[simp] theorem State.setI_pc (a : Addr) : (s.setI a).pc = s.pc := rfl
@[simp] theorem State.setI_stack (a : Addr) : (s.setI a).stack = s.stack := rfl
@[simp] theorem State.setI_mem (a : Addr) : (s.setI a).mem = s.mem := rfl
@[simp] theorem State.setI_fb (a : Addr) : (s.setI a).fb = s.fb := rfl
@[simp] theorem State.setI_dt (a : Addr) : (s.setI a).dt = s.dt := rfl
@[simp] theorem State.setI_st (a : Addr) : (s.setI a).st = s.st := rfl
@[simp] theorem State.setI_paused (a : Addr) : (s.setI a).paused = s.paused := rfl
@[simp] theorem State.setI_stepMode (a : Addr) : (s.setI a).stepMode = s.stepMode := rfl
@[simp] theorem State.setI_stepArmed (a : Addr) : (s.setI a).stepArmed = s.stepArmed := rfl
@[simp] theorem State.setI_quit (a : Addr) : (s.setI a).quit = s.quit := rfl
@[simp] theorem State.setI_debugEnabled (a : Addr) : (s.setI a).debugEnabled = s.debugEnabled := rfl
@[simp] theorem State.setI_fault (a : Addr) : (s.setI a).fault = s.fault := rfl
@[simp] theorem State.setI_romLen (a : Addr) : (s.setI a).romLen = s.romLen := rfl
@[simp] theorem State.setI_presents (a : Addr) : (s.setI a).presents = s.presents := rfl
@[simp] theorem State.setI_inputs (a : Addr) : (s.setI a).inputs = s.inputs := rfl
@[simp] theorem State.setI_cycle (a : Addr) : (s.setI a).cycle = s.cycle := rfl
@[simp] theorem State.setI_reg (a : Addr) (z : RegIx) : (s.setI a).reg z = s.reg z := rfl
@[simp] theorem State.setI_input (a : Addr) : (s.setI a).input = s.input := rfl

/-! ## setPc -/

@[simp] theorem State.setPc_v (a : Addr) : (s.setPc a).v = s.v := rfl
@[simp] theorem State.setPc_i (a : Addr) : (s.setPc a).i = s.i := rfl
@[simp] theorem State.setPc_pc (a : Addr) : (s.setPc a).pc = a := rfl
@[simp] theorem State.setPc_stack (a : Addr) : (s.setPc a).stack = s.stack := rfl
@[simp] theorem State.setPc_mem (a : Addr) : (s.setPc a).mem = s.mem := rfl
@[simp] theorem State.setPc_fb (a : Addr) : (s.setPc a).fb = s.fb := rfl
@[simp] theorem State.setPc_dt (a : Addr) : (s.setPc a).dt = s.dt := rfl
@[simp] theorem State.setPc_st (a : Addr) : (s.setPc a).st = s.st := rfl
@[simp] theorem State.setPc_paused (a : Addr) : (s.setPc a).paused = s.paused := rfl
@[simp] theorem State.setPc_stepMode (a : Addr) : (s.setPc a).stepMode = s.stepMode := rfl
@[simp] theorem State.setPc_stepArmed (a : Addr) : (s.setPc a).stepArmed = s.stepArmed := rfl
@[simp] theorem State.setPc_quit (a : Addr) : (s.setPc a).quit = s.quit := rfl
@[simp] theorem State.setPc_debugEnabled (a : Addr) : (s.setPc a).debugEnabled = s.debugEnabled := rfl
@[simp] theorem State.setPc_fault (a : Addr) : (s.setPc a).fault = s.fault := rfl
@[simp] theorem State.setPc_romLen (a : Addr) : (s.setPc a).romLen = s.romLen := rfl
@[simp] theorem State.setPc_presents (a : Addr) : (s.setPc a).presents = s.presents := rfl
@[simp] theorem State.setPc_inputs (a : Addr) : (s.setPc a).inputs = s.inputs := rfl
@[simp] theorem State.setPc_cycle (a : Addr) : (s.setPc a).cycle = s.cycle := rfl
@[simp] theorem State.setPc_reg (a : Addr) (z : RegIx) : (s.setPc a).reg z = s.reg z := rfl
@[simp] theorem State.setPc_input (a : Addr) : (s.setPc a).input = s.input := rfl

/-! ## setStack -/

@[simp] theorem State.setStack_v (l : List Addr) : (s.setStack l).v = s.v := rfl
@[simp] theorem State.setStack_i (l : List Addr) : (s.setStack l).i = s.i := rfl
@[simp] theorem State.setStack_pc (l : List Addr) : (s.setStack l).pc = s.pc := rfl
@[simp] theorem State.setStack_stack (l : List Addr) : (s.setStack l).stack = l := rfl
@[simp] theorem State.setStack_mem (l : List Addr) : (s.setStack l).mem = s.mem := rfl
@[simp] theorem State.setStack_fb (l : List Addr) : (s.setStack l).fb = s.fb := rfl
@[simp] theorem State.setStack_dt (l : List Addr) : (s.setStack l).dt = s.dt := rfl
@[simp] theorem State.setStack_st (l : List Addr) : (s.setStack l).st = s.st := rfl
@[simp] theorem State.setStack_paused (l : List Addr) : (s.setStack l).paused = s.paused := rfl
@[simp] theorem State.setStack_stepMode (l : List Addr) : (s.setStack l).stepMode = s.stepMode := rfl
@[simp] theorem State.setStack_stepArmed (l : List Addr) : (s.setStack l).stepArmed = s.stepArmed := rfl
@[simp] theorem State.setStack_quit (l : List Addr) : (s.setStack l).quit = s.quit := rfl
@[simp] theorem State.setStack_debugEnabled (l : List Addr) : (s.setStack l).debugEnabled = s.debugEnabled := rfl
@[simp] theorem State.setStack_fault (l : List Addr) : (s.setStack l).fault = s.fault := rfl
@[simp] theorem State.setStack_romLen (l : List Addr) : (s.setStack l).romLen = s.romLen := rfl
@[simp] theorem State.setStack_presents (l : List Addr) : (s.setStack l).presents = s.presents := rfl
@[simp] theorem State.setStack_inputs (l : List Addr) : (s.setStack l).inputs = s.inputs := rfl
@[simp] theorem State.setStack_cycle (l : List Addr) : (s.setStack l).cycle = s.cycle := rfl
@[simp] theorem State.setStack_reg (l : List Addr) (z : RegIx) : (s.setStack l).reg z = s.reg z := rfl
@[simp] theorem State.setStack_input (l : List Addr) : (s.setStack l).input = s.input := rfl

/-! ## push -/

@[simp] theorem State.push_v (a : Addr) : (s.push a).v = s.v := rfl
@[simp] theorem State.push_i (a : Addr) : (s.push a).i = s.i := rfl
@[simp] theorem State.push_pc (a : Addr) : (s.push a).pc = s.pc := rfl
@[simp] theorem State.push_stack (a : Addr) : (s.push a).stack = s.stack ++ [a] := rfl
@[simp] theorem State.push_mem (a : Addr) : (s.push a).mem = s.mem := rfl
@[simp] theorem State.push_fb (a : Addr) : (s.push a).fb = s.fb := rfl
@[simp] theorem State.push_dt (a : Addr) : (s.push a).dt = s.dt := rfl
@[simp] theorem State.push_st (a : Addr) : (s.push a).st = s.st := rfl
@[simp] theorem State.push_paused (a : Addr) : (s.push a).paused = s.paused := rfl
@[simp] theorem State.push_stepMode (a : Addr) : (s.push a).stepMode = s.stepMode := rfl
@[simp] theorem State.push_stepArmed (a : Addr) : (s.push a).stepArmed = s.stepArmed := rfl
@[simp] theorem State.push_quit (a : Addr) : (s.push a).quit = s.quit := rfl
@[simp] theorem State.push_debugEnabled (a : Addr) : (s.push a).debugEnabled = s.debugEnabled := rfl
@[simp] theorem State.push_fault (a : Addr) : (s.push a).fault = s.fault := rfl
@[simp] theorem State.push_romLen (a : Addr) : (s.push a).romLen = s.romLen := rfl
@[simp] theorem State.push_presents (a : Addr) : (s.push a).presents = s.presents := rfl
@[simp] theorem State.push_inputs (a : Addr) : (s.push a).inputs = s.inputs := rfl
@[simp] theorem State.push_cycle (a : Addr) : (s.push a).cycle = s.cycle := rfl
@[simp] theorem State.push_reg (a : Addr) (z : RegIx) : (s.push a).reg z = s.reg z := rfl
@[simp] theorem State.push_input (a : Addr) : (s.push a).input = s.input := rfl

/-! ## setMem -/

@[simp] theorem State.setMem_v (m : Memory) : (s.setMem m).v = s.v := rfl
@[simp] theorem State.setMem_i (m : Memory) : (s.setMem m).i = s.i := rfl
@[simp] theorem State.setMem_pc (m : Memory) : (s.setMem m).pc = s.pc := rfl
@[simp] theorem State.setMem_stack (m : Memory) : (s.setMem m).stack = s.stack := rfl
@[simp] theorem State.setMem_mem (m : Memory) : (s.setMem m).mem = m := rfl
@[simp] theorem State.setMem_fb (m : Memory) : (s.setMem m).fb = s.fb := rfl
@[simp] theorem State.setMem_dt (m : Memory) : (s.setMem m).dt = s.dt := rfl
@[simp] theorem State.setMem_st (m : Memory) : (s.setMem m).st = s.st := rfl
@[simp] theorem State.setMem_paused (m : Memory) : (s.setMem m).paused = s.paused := rfl
@[simp] theorem State.setMem_stepMode (m : Memory) : (s.setMem m).stepMode = s.stepMode := rfl
@[simp] theorem State.setMem_stepArmed (m : Memory) : (s.setMem m).stepArmed = s.stepArmed := rfl
@[simp] theorem State.setMem_quit (m : Memory) : (s.setMem m).quit = s.quit := rfl
@[simp] theorem State.setMem_debugEnabled (m : Memory) : (s.setMem m).debugEnabled = s.debugEnabled := rfl
@[simp] theorem State.setMem_fault (m : Memory) : (s.setMem m).fault = s.fault := rfl
@[simp] theorem State.setMem_romLen (m : Memory) : (s.setMem m).romLen = s.romLen := rfl
@[simp] theorem State.setMem_presents (m : Memory) : (s.setMem m).presents = s.presents := rfl
@[simp] theorem State.setMem_inputs (m : Memory) : (s.setMem m).inputs = s.inputs := rfl
@[simp] theorem State.setMem_cycle (m : Memory) : (s.setMem m).cycle = s.cycle := rfl
@[simp] theorem State.setMem_reg (m : Memory) (z : RegIx) : (s.setMem m).reg z = s.reg z := rfl
@[simp] theorem State.setMem_input (m : Memory) : (s.setMem m).input = s.input := rfl

/-! ## setFb -/

@[simp] theorem State.setFb_v (f : Framebuffer) : (s.setFb f).v = s.v := rfl
@[simp] theorem State.setFb_i (f : Framebuffer) : (s.setFb f).i = s.i := rfl
@[simp] theorem State.setFb_pc (f : Framebuffer) : (s.setFb f).pc = s.pc := rfl
@[simp] theorem State.setFb_stack (f : Framebuffer) : (s.setFb f).stack = s.stack := rfl
@[simp] theorem State.setFb_mem (f : Framebuffer) : (s.setFb f).mem = s.mem := rfl
@[simp] theorem State.setFb_fb (f : Framebuffer) : (s.setFb f).fb = f := rfl
@[simp] theorem State.setFb_dt (f : Framebuffer) : (s.setFb f).dt = s.dt := rfl
@[simp] theorem State.setFb_st (f : Framebuffer) : (s.setFb f).st = s.st := rfl
@[simp] theorem State.setFb_paused (f : Framebuffer) : (s.setFb f).paused = s.paused := rfl
@[simp] theorem State.setFb_stepMode (f : Framebuffer) : (s.setFb f).stepMode = s.stepMode := rfl
@[simp] theorem State.setFb_stepArmed (f : Framebuffer) : (s.setFb f).stepArmed = s.stepArmed := rfl
@[simp] theorem State.setFb_quit (f : Framebuffer) : (s.setFb f).quit = s.quit := rfl
@[simp] theorem State.setFb_debugEnabled (f : Framebuffer) : (s.setFb f).debugEnabled = s.debugEnabled := rfl
@[simp] theorem State.setFb_fault (f : Framebuffer) : (s.setFb f).fault = s.fault := rfl
@[simp] theorem State.setFb_romLen (f : Framebuffer) : (s.setFb f).romLen = s.romLen := rfl
@[simp] theorem State.setFb_presents (f : Framebuffer) : (s.setFb f).presents = s.presents := rfl
@[simp] theorem State.setFb_inputs (f : Framebuffer) : (s.setFb f).inputs = s.inputs := rfl
@[simp] theorem State.setFb_cycle (f : Framebuffer) : (s.setFb f).cycle = s.cycle := rfl
@[simp] theorem State.setFb_reg (f : Framebuffer) (z : RegIx) : (s.setFb f).reg z = s.reg z := rfl
@[simp] theorem State.setFb_input (f : Framebuffer) : (s.setFb f).input = s.input := rfl

/-! ## setDt -/

@[simp] theorem State.setDt_v (b : Byte) : (s.setDt b).v = s.v := rfl
@[simp] theorem State.setDt_i (b : Byte) : (s.setDt b).i = s.i := rfl
@[simp] theorem State.setDt_pc (b : Byte) : (s.setDt b).pc = s.pc := rfl
@[simp] theorem State.setDt_stack (b : Byte) : (s.setDt b).stack = s.stack := rfl
@[simp] theorem State.setDt_mem (b : Byte) : (s.setDt b).mem = s.mem := rfl
@[simp] theorem State.setDt_fb (b : Byte) : (s.setDt b).fb = s.fb := rfl
@[simp] theorem State.setDt_dt (b : Byte) : (s.setDt b).dt = b := rfl
@[simp] theorem State.setDt_st (b : Byte) : (s.setDt b).st = s.st := rfl
@[simp] theorem State.setDt_paused (b : Byte) : (s.setDt b).paused = s.paused := rfl
@[simp] theorem State.setDt_stepMode (b : Byte) : (s.setDt b).stepMode = s.stepMode := rfl
@[simp] theorem State.setDt_stepArmed (b : Byte) : (s.setDt b).stepArmed = s.stepArmed := rfl
@[simp] theorem State.setDt_quit (b : Byte) : (s.setDt b).quit = s.quit := rfl
@[simp] theorem State.setDt_debugEnabled (b : Byte) : (s.setDt b).debugEnabled = s.debugEnabled := rfl
@[simp] theorem State.setDt_fault (b : Byte) : (s.setDt b).fault = s.fault := rfl
@[simp] theorem State.setDt_romLen (b : Byte) : (s.setDt b).romLen = s.romLen := rfl
@[simp] theorem State.setDt_presents (b : Byte) : (s.setDt b).presents = s.presents := rfl
@[simp] theorem State.setDt_inputs (b : Byte) : (s.setDt b).inputs = s.inputs := rfl
@[simp] theorem State.setDt_cycle (b : Byte) : (s.setDt b).cycle = s.cycle := rfl
@[simp] theorem State.setDt_reg (b : Byte) (z : RegIx) : (s.setDt b).reg z = s.reg z := rfl
@[simp] theorem State.setDt_input (b : Byte) : (s.setDt b).input = s.input := rfl

/-! ## setSt -/

@[simp] theorem State.setSt_v (b : Byte) : (s.setSt b).v = s.v := rfl
@[simp] theorem State.setSt_i (b : Byte) : (s.setSt b).i = s.i := rfl
@[simp] theorem State.setSt_pc (b : Byte) : (s.setSt b).pc = s.pc := rfl
@[simp] theorem State.setSt_stack (b : Byte) : (s.setSt b).stack = s.stack := rfl
@[simp] theorem State.setSt_mem (b : Byte) : (s.setSt b).mem = s.mem := rfl
@[simp] theorem State.setSt_fb (b : Byte) : (s.setSt b).fb = s.fb := rfl
@[simp] theorem State.setSt_dt (b : Byte) : (s.setSt b).dt = s.dt := rfl
@[simp] theorem State.setSt_st (b : Byte) : (s.setSt b).st = b := rfl
@[simp] theorem State.setSt_paused (b : Byte) : (s.setSt b).paused = s.paused := rfl
@[simp] theorem State.setSt_stepMode (b : Byte) : (s.setSt b).stepMode = s.stepMode := rfl
@[simp] theorem State.setSt_stepArmed (b : Byte) : (s.setSt b).stepArmed = s.stepArmed := rfl
@[simp] theorem State.setSt_quit (b : Byte) : (s.setSt b).quit = s.quit := rfl
@[simp] theorem State.setSt_debugEnabled (b : Byte) : (s.setSt b).debugEnabled = s.debugEnabled := rfl
@[simp] theorem State.setSt_fault (b : Byte) : (s.setSt b).fault = s.fault := rfl
@[simp] theorem State.setSt_romLen (b : Byte) : (s.setSt b).romLen = s.romLen := rfl
@[simp] theorem State.setSt_presents (b : Byte) : (s.setSt b).presents = s.presents := rfl
@[simp] theorem State.setSt_inputs (b : Byte) : (s.setSt b).inputs = s.inputs := rfl
@[simp] theorem State.setSt_cycle (b : Byte) : (s.setSt b).cycle = s.cycle := rfl
@[simp] theorem State.setSt_reg (b : Byte) (z : RegIx) : (s.setSt b).reg z = s.reg z := rfl
@[simp] theorem State.setSt_input (b : Byte) : (s.setSt b).input = s.input := rfl

/-! ## raise -/

@[simp] theorem State.raise_v (f : FaultRecord) : (s.raise f).v = s.v := rfl
@[simp] theorem State.raise_i (f : FaultRecord) : (s.raise f).i = s.i := rfl
@[simp] theorem State.raise_pc (f : FaultRecord) : (s.raise f).pc = s.pc := rfl
@[simp] theorem State.raise_stack (f : FaultRecord) : (s.raise f).stack = s.stack := rfl
@[simp] theorem State.raise_mem (f : FaultRecord) : (s.raise f).mem = s.mem := rfl
@[simp] theorem State.raise_fb (f : FaultRecord) : (s.raise f).fb = s.fb := rfl
@[simp] theorem State.raise_dt (f : FaultRecord) : (s.raise f).dt = s.dt := rfl
@[simp] theorem State.raise_st (f : FaultRecord) : (s.raise f).st = s.st := rfl
@[simp] theorem State.raise_paused (f : FaultRecord) : (s.raise f).paused = s.paused := rfl
@[simp] theorem State.raise_stepMode (f : FaultRecord) : (s.raise f).stepMode = s.stepMode := rfl
@[simp] theorem State.raise_stepArmed (f : FaultRecord) : (s.raise f).stepArmed = s.stepArmed := rfl
@[simp] theorem State.raise_quit (f : FaultRecord) : (s.raise f).quit = s.quit := rfl
@[simp] theorem State.raise_debugEnabled (f : FaultRecord) : (s.raise f).debugEnabled = s.debugEnabled := rfl
@[simp] theorem State.raise_fault (f : FaultRecord) : (s.raise f).fault = some f := rfl
@[simp] theorem State.raise_romLen (f : FaultRecord) : (s.raise f).romLen = s.romLen := rfl
@[simp] theorem State.raise_presents (f : FaultRecord) : (s.raise f).presents = s.presents := rfl
@[simp] theorem State.raise_inputs (f : FaultRecord) : (s.raise f).inputs = s.inputs := rfl
@[simp] theorem State.raise_cycle (f : FaultRecord) : (s.raise f).cycle = s.cycle := rfl
@[simp] theorem State.raise_reg (f : FaultRecord) (z : RegIx) : (s.raise f).reg z = s.reg z := rfl
@[simp] theorem State.raise_input (f : FaultRecord) : (s.raise f).input = s.input := rfl

/-! ## nextInput -/

@[simp] theorem State.nextInput_v : (s.nextInput).v = s.v := rfl
@[simp] theorem State.nextInput_i : (s.nextInput).i = s.i := rfl
@[simp] theorem State.nextInput_pc : (s.nextInput).pc = s.pc := rfl
@[simp] theorem State.nextInput_stack : (s.nextInput).stack = s.stack := rfl
@[simp] theorem State.nextInput_mem : (s.nextInput).mem = s.mem := rfl
@[simp] theorem State.nextInput_fb : (s.nextInput).fb = s.fb := rfl
@[simp] theorem State.nextInput_dt : (s.nextInput).dt = s.dt := rfl
@[simp] theorem State.nextInput_st : (s.nextInput).st = s.st := rfl
@[simp] theorem State.nextInput_paused : (s.nextInput).paused = s.paused := rfl
@[simp] theorem State.nextInput_stepMode : (s.nextInput).stepMode = s.stepMode := rfl
@[simp] theorem State.nextInput_stepArmed : (s.nextInput).stepArmed = s.stepArmed := rfl
@[simp] theorem State.nextInput_quit : (s.nextInput).quit = s.quit := rfl
@[simp] theorem State.nextInput_debugEnabled : (s.nextInput).debugEnabled = s.debugEnabled := rfl
@[simp] theorem State.nextInput_fault : (s.nextInput).fault = s.fault := rfl
@[simp] theorem State.nextInput_romLen : (s.nextInput).romLen = s.romLen := rfl
@[simp] theorem State.nextInput_presents : (s.nextInput).presents = s.presents := rfl
@[simp] theorem State.nextInput_inputs : (s.nextInput).inputs = s.inputs.tail := rfl
@[simp] theorem State.nextInput_cycle : (s.nextInput).cycle = s.cycle + 1 := rfl
@[simp] theorem State.nextInput_reg (z : RegIx) : (s.nextInput).reg z = s.reg z := rfl

/-! ## advanceStepSignal -/

@[simp] theorem State.advanceStepSignal_v : (s.advanceStepSignal).v = s.v := rfl
@[simp] theorem State.advanceStepSignal_i : (s.advanceStepSignal).i = s.i := rfl
@[simp] theorem State.advanceStepSignal_pc : (s.advanceStepSignal).pc = s.pc := rfl
@[simp] theorem State.advanceStepSignal_stack : (s.advanceStepSignal).stack = s.stack := rfl
@[simp] theorem State.advanceStepSignal_mem : (s.advanceStepSignal).mem = s.mem := rfl
@[simp] theorem State.advanceStepSignal_fb : (s.advanceStepSignal).fb = s.fb := rfl
@[simp] theorem State.advanceStepSignal_dt : (s.advanceStepSignal).dt = s.dt := rfl
@[simp] theorem State.advanceStepSignal_st : (s.advanceStepSignal).st = s.st := rfl
@[simp] theorem State.advanceStepSignal_paused : (s.advanceStepSignal).paused = s.paused := rfl
@[simp] theorem State.advanceStepSignal_stepMode : (s.advanceStepSignal).stepMode = s.stepMode := rfl
@[simp] theorem State.advanceStepSignal_stepArmed : (s.advanceStepSignal).stepArmed = true := rfl
@[simp] theorem State.advanceStepSignal_quit : (s.advanceStepSignal).quit = s.quit := rfl
@[simp] theorem State.advanceStepSignal_debugEnabled : (s.advanceStepSignal).debugEnabled = s.debugEnabled := rfl
@[simp] theorem State.advanceStepSignal_fault : (s.advanceStepSignal).fault = s.fault := rfl
@[simp] theorem State.advanceStepSignal_romLen : (s.advanceStepSignal).romLen = s.romLen := rfl
@[simp] theorem State.advanceStepSignal_presents : (s.advanceStepSignal).presents = s.presents := rfl
@[simp] theorem State.advanceStepSignal_inputs : (s.advanceStepSignal).inputs = s.inputs := rfl
@[simp] theorem State.advanceStepSignal_cycle : (s.advanceStepSignal).cycle = s.cycle := rfl
@[simp] theorem State.advanceStepSignal_reg (z : RegIx) : (s.advanceStepSignal).reg z = s.reg z := rfl
@[simp] theorem State.advanceStepSignal_input : (s.advanceStepSignal).input = s.input := rfl

/-! ## One register -/

/-- Read after write of one register (00_scope.md R9). -/
theorem State.reg_setReg (x z : RegIx) (b : Byte) : (s.setReg x b).reg z = if z = x then b else s.reg z := by
  have h : x.toNat = z.toNat ↔ z = x := by rw [BitVec.toNat_inj]; exact eq_comm
  simp only [State.reg, State.setReg, Vector.getElem_set, h]

@[simp] theorem State.reg_setReg_same (x : RegIx) (b : Byte) : (s.setReg x b).reg x = b := by simp [State.reg_setReg]

theorem State.reg_setReg_other {x z : RegIx} (b : Byte) (h : z ≠ x) : (s.setReg x b).reg z = s.reg z := by
  simp [State.reg_setReg, h]

/-- Two states with the same registers have the same register vector. -/
theorem State.v_eq_of_reg {s t : State} (h : ∀ x, t.reg x = s.reg x) : t.v = s.v := by
  apply Vector.ext
  intro k hk
  have := h (BitVec.ofNat 4 k)
  simpa [State.reg, Nat.mod_eq_of_lt hk] using this

/-! ## present, skipIf: every field but the ones they are about -/

@[simp] theorem State.present_v (site : PresentSite) : (s.present site).v = s.v := by unfold State.present; split <;> rfl
@[simp] theorem State.present_i (site : PresentSite) : (s.present site).i = s.i := by unfold State.present; split <;> rfl
@[simp] theorem State.present_pc (site : PresentSite) : (s.present site).pc = s.pc := by unfold State.present; split <;> rfl
@[simp] theorem State.present_stack (site : PresentSite) : (s.present site).stack = s.stack := by unfold State.present; split <;> rfl
@[simp] theorem State.present_mem (site : PresentSite) : (s.present site).mem = s.mem := by unfold State.present; split <;> rfl
@[simp] theorem State.present_fb (site : PresentSite) : (s.present site).fb = s.fb := by unfold State.present; split <;> rfl
@[simp] theorem State.present_dt (site : PresentSite) : (s.present site).dt = s.dt := by unfold State.present; split <;> rfl
@[simp] theorem State.present_st (site : PresentSite) : (s.present site).st = s.st := by unfold State.present; split <;> rfl
@[simp] theorem State.present_paused (site : PresentSite) : (s.present site).paused = s.paused := by unfold State.present; split <;> rfl
@[simp] theorem State.present_stepMode (site : PresentSite) : (s.present site).stepMode = s.stepMode := by unfold State.present; split <;> rfl
@[simp] theorem State.present_stepArmed (site : PresentSite) : (s.present site).stepArmed = s.stepArmed := by unfold State.present; split <;> rfl
@[simp] theorem State.present_quit (site : PresentSite) : (s.present site).quit = s.quit := by unfold State.present; split <;> rfl
@[simp] theorem State.present_debugEnabled (site : PresentSite) : (s.present site).debugEnabled = s.debugEnabled := by unfold State.present; split <;> rfl
@[simp] theorem State.present_romLen (site : PresentSite) : (s.present site).romLen = s.romLen := by unfold State.present; split <;> rfl
@[simp] theorem State.present_inputs (site : PresentSite) : (s.present site).inputs = s.inputs := by unfold State.present; split <;> rfl
@[simp] theorem State.present_cycle (site : PresentSite) : (s.present site).cycle = s.cycle := by unfold State.present; split <;> rfl
@[simp] theorem State.present_reg (site : PresentSite) (z : RegIx) : (s.present site).reg z = s.reg z := by simp [State.reg]
@[simp] theorem State.present_input (site : PresentSite) : (s.present site).input = s.input := by simp [State.input]
@[simp] theorem State.present_presents (site : PresentSite) : (s.present site).presents = s.fb :: s.presents := by
  unfold State.present; split <;> rfl
/-- A present whose draw succeeds logs the framebuffer and changes nothing else (44_display.md R152). -/
theorem State.present_succeeds {site : PresentSite} (h : site ∉ s.input.failing) :
    s.present site = { s with presents := s.fb :: s.presents } := if_neg h
/-- A present whose draw fails logs the framebuffer and ends the run (60_exceptions.md R207; log entry 15). -/
theorem State.present_fails {site : PresentSite} (h : site ∈ s.input.failing) :
    s.present site = { s with presents := s.fb :: s.presents, fault := some .backendError } := if_pos h
/-- A present sets the fault record only where its `draw` fails (60_exceptions.md R207). -/
theorem State.present_fault (site : PresentSite) :
    (s.present site).fault = if site ∈ s.input.failing then some .backendError else s.fault := by
  unfold State.present; split <;> rfl

@[simp] theorem State.skipIf_v (c : Bool) : (s.skipIf c).v = s.v := by cases c <;> rfl
@[simp] theorem State.skipIf_i (c : Bool) : (s.skipIf c).i = s.i := by cases c <;> rfl
@[simp] theorem State.skipIf_stack (c : Bool) : (s.skipIf c).stack = s.stack := by cases c <;> rfl
@[simp] theorem State.skipIf_mem (c : Bool) : (s.skipIf c).mem = s.mem := by cases c <;> rfl
@[simp] theorem State.skipIf_fb (c : Bool) : (s.skipIf c).fb = s.fb := by cases c <;> rfl
@[simp] theorem State.skipIf_dt (c : Bool) : (s.skipIf c).dt = s.dt := by cases c <;> rfl
@[simp] theorem State.skipIf_st (c : Bool) : (s.skipIf c).st = s.st := by cases c <;> rfl
@[simp] theorem State.skipIf_paused (c : Bool) : (s.skipIf c).paused = s.paused := by cases c <;> rfl
@[simp] theorem State.skipIf_stepMode (c : Bool) : (s.skipIf c).stepMode = s.stepMode := by cases c <;> rfl
@[simp] theorem State.skipIf_stepArmed (c : Bool) : (s.skipIf c).stepArmed = s.stepArmed := by cases c <;> rfl
@[simp] theorem State.skipIf_quit (c : Bool) : (s.skipIf c).quit = s.quit := by cases c <;> rfl
@[simp] theorem State.skipIf_debugEnabled (c : Bool) : (s.skipIf c).debugEnabled = s.debugEnabled := by cases c <;> rfl
@[simp] theorem State.skipIf_fault (c : Bool) : (s.skipIf c).fault = s.fault := by cases c <;> rfl
@[simp] theorem State.skipIf_romLen (c : Bool) : (s.skipIf c).romLen = s.romLen := by cases c <;> rfl
@[simp] theorem State.skipIf_presents (c : Bool) : (s.skipIf c).presents = s.presents := by cases c <;> rfl
@[simp] theorem State.skipIf_inputs (c : Bool) : (s.skipIf c).inputs = s.inputs := by cases c <;> rfl
@[simp] theorem State.skipIf_cycle (c : Bool) : (s.skipIf c).cycle = s.cycle := by cases c <;> rfl
@[simp] theorem State.skipIf_reg (c : Bool) (z : RegIx) : (s.skipIf c).reg z = s.reg z := by simp [State.reg]
@[simp] theorem State.skipIf_input (c : Bool) : (s.skipIf c).input = s.input := by simp [State.input]
@[simp] theorem State.skipIf_pc (c : Bool) : (s.skipIf c).pc = if c then s.pc + 2#16 else s.pc := by cases c <;> rfl

/-- A frame holds of a state and itself. -/
theorem OnlyChanges.refl (ps : List Part) (s : State) : OnlyChanges ps s s := by
  constructor <;> intros <;> rfl

/-- Frames compose. -/
theorem OnlyChanges.trans {ps qs : List Part} {s t u : State} (h : OnlyChanges ps s t) (k : OnlyChanges qs t u) :
    OnlyChanges (ps ++ qs) s u := by
  constructor
  · intro x hx; simp only [List.mem_append, not_or] at hx; rw [k.reg x hx.2, h.reg x hx.1]
  · intro hx; simp only [List.mem_append, not_or] at hx; rw [k.i hx.2, h.i hx.1]
  · intro hx; simp only [List.mem_append, not_or] at hx; rw [k.pc hx.2, h.pc hx.1]
  · intro hx; simp only [List.mem_append, not_or] at hx; rw [k.stack hx.2, h.stack hx.1]
  · intro hx a; simp only [List.mem_append, not_or] at hx; rw [k.mem hx.2, h.mem hx.1]
  · intro hx; simp only [List.mem_append, not_or] at hx; rw [k.fb hx.2, h.fb hx.1]
  · intro hx; simp only [List.mem_append, not_or] at hx; rw [k.dt hx.2, h.dt hx.1]
  · intro hx; simp only [List.mem_append, not_or] at hx; rw [k.st hx.2, h.st hx.1]
  · intro hx; simp only [List.mem_append, not_or] at hx; rw [k.paused hx.2, h.paused hx.1]
  · intro hx; simp only [List.mem_append, not_or] at hx; rw [k.stepMode hx.2, h.stepMode hx.1]
  · intro hx; simp only [List.mem_append, not_or] at hx; rw [k.stepArmed hx.2, h.stepArmed hx.1]
  · intro hx; simp only [List.mem_append, not_or] at hx; rw [k.quit hx.2, h.quit hx.1]
  · intro hx; simp only [List.mem_append, not_or] at hx; rw [k.fault hx.2, h.fault hx.1]
  · intro hx; simp only [List.mem_append, not_or] at hx; rw [k.presents hx.2, h.presents hx.1]
  · intro hx; simp only [List.mem_append, not_or] at hx; rw [k.inputs hx.2, h.inputs hx.1]
  · intro hx; simp only [List.mem_append, not_or] at hx; rw [k.cycle hx.2, h.cycle hx.1]
  · rw [k.debug, h.debug]
  · rw [k.romLen, h.romLen]

end Sys2Proof.Machine
end

