-- ==== Sys2Proof/Laws/Blitter.lean ====
section
/-!
SUPPORT. The laws of the sprite blitter: what one toggled cell, one drawn row and the drawn rows leave in each cell, and when a
collision is recorded (44_display.md R151).
-/

namespace Sys2Proof.Machine

/-- The clear framebuffer has no cell set. -/
@[simp] theorem Framebuffer.cell_clear (x y : Nat) : Framebuffer.cell Framebuffer.clear x y = false := by
  have h : Framebuffer.row Framebuffer.clear y = 0#64 := by
    simp only [Framebuffer.row, Framebuffer.clear, Vector.getElem?_replicate]
    split <;> rfl
  simp [Framebuffer.cell, h]

/-- Toggling one cell toggles that cell and no other. -/
theorem Framebuffer.cell_toggle (f : Framebuffer) {x y : Nat} (a b : Nat) (hx : x < 64) (hy : y < 32) :
    Framebuffer.cell (Framebuffer.toggle f x y) a b = (Framebuffer.cell f a b ^^ (decide (a = x) && decide (b = y))) := by
  unfold Framebuffer.cell Framebuffer.toggle
  by_cases hb : b = y
  · subst hb
    have h1 : (f.setIfInBounds b (Framebuffer.row f b ^^^ 1#64 <<< x))[b]? = some (Framebuffer.row f b ^^^ 1#64 <<< x) := by
      simp [hy]
    have h2 : (1#64 <<< x).getLsbD a = decide (a = x) := by
      simp only [BitVec.getLsbD_shiftLeft, BitVec.getLsbD_one]
      by_cases ha : a = x
      · subst ha; simp [hx]
      · have : ¬ (x ≤ a ∧ a - x = 0) := by omega
        simp only [ha, decide_false]
        by_cases h64 : a < 64 <;> by_cases hxa : a < x <;> (simp [h64, hxa]; try omega)
    rw [show Framebuffer.row (f.setIfInBounds b (Framebuffer.row f b ^^^ 1#64 <<< x)) b = Framebuffer.row f b ^^^ 1#64 <<< x
      by rw [Framebuffer.row, h1]; rfl, BitVec.getLsbD_xor, h2]
    simp
  · have h1 : (f.setIfInBounds y (Framebuffer.row f y ^^^ 1#64 <<< x))[b]? = f[b]? :=
      Vector.getElem?_setIfInBounds_ne (by omega)
    rw [show Framebuffer.row (f.setIfInBounds y (Framebuffer.row f y ^^^ 1#64 <<< x)) b = Framebuffer.row f b
      by rw [Framebuffer.row, h1]; rfl]
    simp [hb]

/-- One sprite row, one column further. -/
theorem drawRow_succ (d : Drawing) (b : Byte) (x0 y n : Nat) :
    drawRow d b x0 y (n + 1) =
      if b.getLsbD (7 - n) then drawCell (drawRow d b x0 y n) (x0 + n) y else drawRow d b x0 y n := by
  simp [drawRow, List.range_succ, List.foldl_append]

/-- The drawn rows, one row further. -/
theorem drawRows_succ (d : Drawing) (m : Memory) (base x0 y0 n cols : Nat) :
    drawRows d m base x0 y0 (n + 1) cols =
      drawRow (drawRows d m base x0 y0 n cols) (m.read (base + n)) x0 (y0 + n) cols := by
  simp [drawRows, List.range_succ, List.foldl_append]

/-- The cells after one sprite row: those under its one bits are toggled. -/
theorem drawRow_cell (d : Drawing) (b : Byte) {x0 y cols : Nat} (hc : x0 + cols ≤ 64) (hy : y < 32) (u v : Nat) :
    Framebuffer.cell (drawRow d b x0 y cols).fb u v =
      (Framebuffer.cell d.fb u v ^^
        (decide (v = y) && (decide (x0 ≤ u) && decide (u < x0 + cols)) && b.getLsbD (7 - (u - x0)))) := by
  induction cols with
  | zero =>
    have h : (decide (x0 ≤ u) && decide (u < x0 + 0)) = false := by
      simp only [Bool.and_eq_false_iff, decide_eq_false_iff_not]; omega
    rw [h]; simp [drawRow]
  | succ n ih =>
    rw [drawRow_succ]
    have key : (decide (x0 ≤ u) && decide (u < x0 + (n + 1))) =
        ((decide (x0 ≤ u) && decide (u < x0 + n)) || decide (u = x0 + n)) := by
      rw [Bool.eq_iff_iff]; simp; omega
    by_cases hu : u = x0 + n
    · have h0 : (decide (x0 ≤ u) && decide (u < x0 + n)) = false := by
        simp only [Bool.and_eq_false_iff, decide_eq_false_iff_not]; omega
      have hs : u - x0 = n := by omega
      have ih' := ih (by omega)
      rw [h0] at ih'
      rw [key, h0, hs]
      split
      · rename_i hb
        rw [drawCell, Framebuffer.cell_toggle _ _ _ (by omega) hy, ih', hb]
        simp [hu]
      · rename_i hb
        rw [ih', Bool.eq_false_iff.mpr hb]
        simp
    · rw [key]
      split
      · rw [drawCell, Framebuffer.cell_toggle _ _ _ (by omega) hy, ih (by omega)]
        simp [hu]
      · rw [ih (by omega)]; simp [hu]

/-- A collision of one sprite row: the one before it, or a cell set under a one bit. -/
theorem drawRow_collision (d : Drawing) (b : Byte) {x0 y cols : Nat} (hc : x0 + cols ≤ 64) (hy : y < 32) :
    (drawRow d b x0 y cols).collision = true ↔
      d.collision = true ∨ ∃ c, c < cols ∧ b.getLsbD (7 - c) = true ∧ Framebuffer.cell d.fb (x0 + c) y = true := by
  induction cols with
  | zero => simp [drawRow]
  | succ n ih =>
    have step : (∃ c, c < n + 1 ∧ b.getLsbD (7 - c) = true ∧ Framebuffer.cell d.fb (x0 + c) y = true) ↔
        (∃ c, c < n ∧ b.getLsbD (7 - c) = true ∧ Framebuffer.cell d.fb (x0 + c) y = true) ∨
          (b.getLsbD (7 - n) = true ∧ Framebuffer.cell d.fb (x0 + n) y = true) := by
      constructor
      · rintro ⟨c, h1, h2⟩
        by_cases hcn : c = n
        · exact .inr (hcn ▸ h2)
        · exact .inl ⟨c, by omega, h2⟩
      · rintro (⟨c, h1, h2⟩ | h)
        · exact ⟨c, by omega, h2⟩
        · exact ⟨n, by omega, h⟩
    rw [drawRow_succ, step]
    have hcell : Framebuffer.cell (drawRow d b x0 y n).fb (x0 + n) y = Framebuffer.cell d.fb (x0 + n) y := by
      rw [drawRow_cell d b (by omega) hy]; simp
    split
    · rename_i hb
      simp only [drawCell, Bool.or_eq_true, ih (by omega), hcell, hb, true_and, or_assoc]
    · rename_i hb
      rw [ih (by omega)]; simp [hb]

/-- The bit of the sprite at column `u`, row `v` of the grid: inside the drawn extent, bit `7 - c` of row `r` (44_display.md R151). -/
def spriteBit (m : Memory) (base x0 y0 rows cols u v : Nat) : Bool :=
  (decide (y0 ≤ v) && decide (v < y0 + rows)) && (decide (x0 ≤ u) && decide (u < x0 + cols)) &&
    (m.read (base + (v - y0))).getLsbD (7 - (u - x0))

/-- The cells after a sprite: XOR with the sprite's bits. -/
theorem drawRows_cell (d : Drawing) (m : Memory) {base x0 y0 rows cols : Nat} (hc : x0 + cols ≤ 64) (hr : y0 + rows ≤ 32)
    (u v : Nat) :
    Framebuffer.cell (drawRows d m base x0 y0 rows cols).fb u v =
      (Framebuffer.cell d.fb u v ^^ spriteBit m base x0 y0 rows cols u v) := by
  induction rows with
  | zero =>
    have h : (decide (y0 ≤ v) && decide (v < y0 + 0)) = false := by
      simp only [Bool.and_eq_false_iff, decide_eq_false_iff_not]; omega
    rw [spriteBit, h]; simp [drawRows]
  | succ n ih =>
    rw [drawRows_succ, drawRow_cell _ _ hc (by omega), ih (by omega)]
    unfold spriteBit
    by_cases hv : v = y0 + n
    · have h0 : (decide (y0 ≤ v) && decide (v < y0 + n)) = false := by
        simp only [Bool.and_eq_false_iff, decide_eq_false_iff_not]; omega
      have h1 : (decide (y0 ≤ v) && decide (v < y0 + (n + 1))) = true := by simp; omega
      rw [h0, h1, show v - y0 = n by omega]
      simp [hv]
    · have h1 : (decide (y0 ≤ v) && decide (v < y0 + (n + 1))) = (decide (y0 ≤ v) && decide (v < y0 + n)) := by
        rw [Bool.eq_iff_iff]; simp; omega
      rw [h1]; simp [hv]

/-- A collision of a sprite: a cell that was set lies under a one bit (44_display.md R151). -/
theorem drawRows_collision (d : Drawing) (m : Memory) {base x0 y0 rows cols : Nat} (hc : x0 + cols ≤ 64)
    (hr : y0 + rows ≤ 32) :
    (drawRows d m base x0 y0 rows cols).collision = true ↔
      d.collision = true ∨ ∃ r c, r < rows ∧ c < cols ∧ (m.read (base + r)).getLsbD (7 - c) = true ∧
        Framebuffer.cell d.fb (x0 + c) (y0 + r) = true := by
  induction rows with
  | zero => simp [drawRows]
  | succ n ih =>
    rw [drawRows_succ, drawRow_collision _ _ hc (by omega), ih (by omega)]
    have hcell : ∀ c, Framebuffer.cell (drawRows d m base x0 y0 n cols).fb (x0 + c) (y0 + n) =
        Framebuffer.cell d.fb (x0 + c) (y0 + n) := by
      intro c
      rw [drawRows_cell d m hc (by omega)]
      have h0 : (decide (y0 ≤ y0 + n) && decide (y0 + n < y0 + n)) = false := by simp
      simp only [spriteBit, h0, Bool.false_and, Bool.xor_false]
    simp only [hcell]
    constructor
    · rintro ((h | ⟨r, c, h1, h2⟩) | ⟨c, h1, h2⟩)
      · exact .inl h
      · exact .inr ⟨r, c, by omega, h2⟩
      · exact .inr ⟨n, c, by omega, h1, h2⟩
    · rintro (h | ⟨r, c, h1, h2, h3⟩)
      · exact .inl (.inl h)
      · by_cases hrn : r = n
        · subst hrn; exact .inr ⟨c, h2, h3⟩
        · exact .inl (.inr ⟨r, c, by omega, h2, h3⟩)

end Sys2Proof.Machine
end

