-- ==== Sys2Proof/Laws/Decode.lean ====
section
/-!
SUPPORT. The laws of the instruction formats (30_encoding.md R71): the fields of an assembled word, and a word as its fields
assembled.
-/

namespace Sys2Proof

/-- The fields as parts of the word's number. -/
theorem fieldClass_toNat (w : Word) : (fieldClass w).toNat = w.toNat / 4096 := by
  have := w.isLt
  simp [fieldClass, Nat.shiftRight_eq_div_pow]; omega
theorem fieldX_toNat (w : Word) : (fieldX w).toNat = w.toNat / 256 % 16 := by
  simp [fieldX, Nat.shiftRight_eq_div_pow]
theorem fieldY_toNat (w : Word) : (fieldY w).toNat = w.toNat / 16 % 16 := by
  simp [fieldY, Nat.shiftRight_eq_div_pow]
theorem fieldN_toNat (w : Word) : (fieldN w).toNat = w.toNat % 16 := by
  simp [fieldN]
theorem fieldNN_toNat (w : Word) : (fieldNN w).toNat = w.toNat % 256 := by
  simp [fieldNN]
theorem fieldNNN_toNat (w : Word) : (fieldNNN w).toNat = w.toNat % 4096 := by
  simp [fieldNNN]

/-- The formats as sums. -/
theorem wordNNN_toNat (c : Nibble) (a : Lit12) : (wordNNN c a).toNat = c.toNat * 4096 + a.toNat := by
  have := a.isLt
  simp only [wordNNN, BitVec.toNat_append, Nat.shiftLeft_eq]
  rw [Nat.mul_comm, ← Nat.two_pow_add_eq_or_of_lt this]
theorem wordXNN_toNat (c : Nibble) (x : RegIx) (b : Byte) :
    (wordXNN c x b).toNat = c.toNat * 4096 + x.toNat * 256 + b.toNat := by
  have := b.isLt
  have := x.isLt
  simp only [wordXNN, BitVec.toNat_append, Nat.shiftLeft_eq]
  rw [Nat.mul_comm c.toNat, ← Nat.two_pow_add_eq_or_of_lt x.isLt, Nat.mul_comm _ (2 ^ 8),
    ← Nat.two_pow_add_eq_or_of_lt b.isLt]
  omega
theorem wordXYN_toNat (c : Nibble) (x y : RegIx) (n : Nibble) :
    (wordXYN c x y n).toNat = c.toNat * 4096 + x.toNat * 256 + y.toNat * 16 + n.toNat := by
  have := n.isLt
  have := y.isLt
  have := x.isLt
  simp only [wordXYN, BitVec.toNat_append, Nat.shiftLeft_eq]
  rw [Nat.mul_comm c.toNat, ← Nat.two_pow_add_eq_or_of_lt x.isLt, Nat.mul_comm (2 ^ 4 * c.toNat + x.toNat),
    ← Nat.two_pow_add_eq_or_of_lt y.isLt, Nat.mul_comm (2 ^ 4 * (2 ^ 4 * c.toNat + x.toNat) + y.toNat),
    ← Nat.two_pow_add_eq_or_of_lt n.isLt]
  omega

section
variable (c : Nibble) (a : Lit12) (x y : RegIx) (b : Byte) (n : Nibble) (w : Word)

@[simp] theorem fieldClass_wordNNN : fieldClass (wordNNN c a) = c := by
  apply BitVec.eq_of_toNat_eq; have := a.isLt; rw [fieldClass_toNat, wordNNN_toNat]; omega
@[simp] theorem fieldNNN_wordNNN : fieldNNN (wordNNN c a) = a := by
  apply BitVec.eq_of_toNat_eq; have := a.isLt; rw [fieldNNN_toNat, wordNNN_toNat]; omega
@[simp] theorem fieldClass_wordXNN : fieldClass (wordXNN c x b) = c := by
  apply BitVec.eq_of_toNat_eq; have := b.isLt; have := x.isLt; rw [fieldClass_toNat, wordXNN_toNat]; omega
@[simp] theorem fieldX_wordXNN : fieldX (wordXNN c x b) = x := by
  apply BitVec.eq_of_toNat_eq; have := b.isLt; have := x.isLt; rw [fieldX_toNat, wordXNN_toNat]; omega
@[simp] theorem fieldNN_wordXNN : fieldNN (wordXNN c x b) = b := by
  apply BitVec.eq_of_toNat_eq; have := b.isLt; have := x.isLt; rw [fieldNN_toNat, wordXNN_toNat]; omega
@[simp] theorem fieldClass_wordXYN : fieldClass (wordXYN c x y n) = c := by
  apply BitVec.eq_of_toNat_eq; have := n.isLt; have := x.isLt; have := y.isLt; rw [fieldClass_toNat, wordXYN_toNat]; omega
@[simp] theorem fieldX_wordXYN : fieldX (wordXYN c x y n) = x := by
  apply BitVec.eq_of_toNat_eq; have := n.isLt; have := x.isLt; have := y.isLt; rw [fieldX_toNat, wordXYN_toNat]; omega
@[simp] theorem fieldY_wordXYN : fieldY (wordXYN c x y n) = y := by
  apply BitVec.eq_of_toNat_eq; have := n.isLt; have := x.isLt; have := y.isLt; rw [fieldY_toNat, wordXYN_toNat]; omega
@[simp] theorem fieldN_wordXYN : fieldN (wordXYN c x y n) = n := by
  apply BitVec.eq_of_toNat_eq; have := n.isLt; have := x.isLt; have := y.isLt; rw [fieldN_toNat, wordXYN_toNat]; omega

/-- A word is its fields of format NNN assembled. -/
theorem wordNNN_fields : wordNNN (fieldClass w) (fieldNNN w) = w := by
  apply BitVec.eq_of_toNat_eq; rw [wordNNN_toNat, fieldClass_toNat, fieldNNN_toNat]; omega
/-- A word is its fields of format XNN assembled. -/
theorem wordXNN_fields : wordXNN (fieldClass w) (fieldX w) (fieldNN w) = w := by
  apply BitVec.eq_of_toNat_eq; rw [wordXNN_toNat, fieldClass_toNat, fieldX_toNat, fieldNN_toNat]; omega
/-- A word is its fields of format XYN assembled. -/
theorem wordXYN_fields : wordXYN (fieldClass w) (fieldX w) (fieldY w) (fieldN w) = w := by
  apply BitVec.eq_of_toNat_eq
  rw [wordXYN_toNat, fieldClass_toNat, fieldX_toNat, fieldY_toNat, fieldN_toNat]; omega

/-- A word stored high byte first reads back whole (20_memory.md R55). -/
@[simp] theorem wordOfBytes_split : wordOfBytes (highByte w) (lowByte w) = w := by
  apply BitVec.eq_of_toNat_eq
  have hw := w.isLt
  simp only [wordOfBytes, highByte, lowByte, BitVec.toNat_append, Nat.shiftLeft_eq, BitVec.extractLsb'_toNat,
    Nat.shiftRight_eq_div_pow]
  rw [Nat.mul_comm, ← Nat.two_pow_add_eq_or_of_lt (Nat.mod_lt _ (by decide))]
  omega
end

/-- Class 0 words that are CLS and RET (30_encoding.md R76). -/
theorem wordNNN_zero_eq (a : Lit12) : (wordNNN 0x0#4 a = 0x00E0#16 ↔ a = 0x0E0#12) ∧ (wordNNN 0x0#4 a = 0x00EE#16 ↔ a = 0x0EE#12) := by
  constructor <;> (rw [← BitVec.toNat_inj, wordNNN_toNat, ← BitVec.toNat_inj]; simp)

/-- Decoding two bytes is decoding the word they make (30_encoding.md R70). -/
@[simp] theorem decodeBytes_cons (hi lo : Byte) (rest : List Byte) :
    decodeBytes (hi :: lo :: rest) =
      match decode (wordOfBytes hi lo) with
      | .ok i => .ok (i, rest)
      | .error e => .error e := rfl

end Sys2Proof
end

