-- ==== Sys2Proof/Laws/Memory.lean ====
section
/-!
SUPPORT. The laws of memory: reads after writes, and that every memory operation keeps the canonical form.
-/

namespace Sys2Proof.Machine

/-- The canonical form of a non-empty list, taken apart. -/
theorem Memory.wfFrom_cons {lo k : Nat} {b : Byte} {rest : Memory} :
    Memory.wfFrom lo ((k, b) :: rest) = true ↔
      lo ≤ k ∧ k < Config.memSize ∧ b ≠ initialByte k ∧ Memory.wfFrom (k + 1) rest = true := by
  simp [Memory.wfFrom, and_assoc]

/-- A canonical list from `lo` up is one from any lower bound. -/
theorem Memory.wfFrom_mono {lo lo' : Nat} {m : Memory} (h : Memory.wfFrom lo m = true) (hl : lo' ≤ lo) :
    Memory.wfFrom lo' m = true := by
  cases m with
  | nil => rfl
  | cons c rest =>
    obtain ⟨h1, h2⟩ := Memory.wfFrom_cons.mp h
    exact Memory.wfFrom_cons.mpr ⟨by omega, h2⟩

/-- Below its lower bound a canonical list lists nothing. -/
theorem Memory.read_below {lo a : Nat} {m : Memory} (h : Memory.wfFrom lo m = true) (ha : a < lo) :
    m.read a = initialByte a := by
  induction m generalizing lo with
  | nil => rfl
  | cons c rest ih =>
    obtain ⟨h1, -, -, h4⟩ := Memory.wfFrom_cons.mp h
    rw [Memory.read, if_neg (by omega)]
    exact ih h4 (by omega)

/-- Reading the address just written (on a canonical list). -/
theorem Memory.read_insert_same {lo a : Nat} {m : Memory} (v : Byte) (h : Memory.wfFrom lo m = true) :
    (m.insert a v).read a = v := by
  induction m generalizing lo with
  | nil => simp only [Memory.insert]; split <;> simp_all [Memory.read]
  | cons c rest ih =>
    obtain ⟨k, b⟩ := c
    obtain ⟨-, -, -, h4⟩ := Memory.wfFrom_cons.mp h
    simp only [Memory.insert]
    split_ifs with h1 h2 h2 h3
    · rw [Memory.read, if_neg (by omega), Memory.read_below h4 (by omega), h2]
    · simp [Memory.read]
    · subst h2; rw [Memory.read_below h4 (by omega), h3]
    · simp [Memory.read]
    · rw [Memory.read, if_neg (by omega)]; exact ih h4

/-- Reading any other address after a write. -/
theorem Memory.read_insert_other {a c : Nat} (m : Memory) (v : Byte) (hc : c ≠ a) :
    (m.insert a v).read c = m.read c := by
  induction m with
  | nil => simp only [Memory.insert]; split <;> simp [Memory.read, hc.symm]
  | cons e rest ih =>
    obtain ⟨k, b⟩ := e
    simp only [Memory.insert]
    split_ifs with h1 h2 h2 h3
    · rfl
    · rw [Memory.read, if_neg hc.symm]
    · rw [Memory.read, if_neg (by omega)]
    · rw [Memory.read, Memory.read, if_neg hc.symm, if_neg (by omega)]
    · rw [Memory.read, Memory.read, ih]

/-- A write keeps the canonical form. -/
theorem Memory.wfFrom_insert {lo a : Nat} {m : Memory} (v : Byte) (h : Memory.wfFrom lo m = true) (hlo : lo ≤ a)
    (ha : a < Config.memSize) : Memory.wfFrom lo (m.insert a v) = true := by
  induction m generalizing lo with
  | nil =>
    simp only [Memory.insert]
    split
    · rfl
    · exact Memory.wfFrom_cons.mpr ⟨hlo, ha, ‹_›, rfl⟩
  | cons c rest ih =>
    obtain ⟨k, b⟩ := c
    obtain ⟨h1, h2, h3, h4⟩ := Memory.wfFrom_cons.mp h
    simp only [Memory.insert]
    split_ifs with g1 g2 g2 g3
    · exact h
    · exact Memory.wfFrom_cons.mpr ⟨hlo, ha, g2, Memory.wfFrom_cons.mpr ⟨by omega, h2, h3, h4⟩⟩
    · exact Memory.wfFrom_mono h4 (by omega)
    · subst g2; exact Memory.wfFrom_cons.mpr ⟨hlo, ha, g3, h4⟩
    · exact Memory.wfFrom_cons.mpr ⟨h1, h2, h3, ih h4 (by omega)⟩

/-- Read after write, same address (20_memory.md R58). -/
theorem Memory.read_write_same {m : Memory} {a : Nat} (v : Byte) (h : m.wf = true) (ha : a < Config.memSize) :
    (m.write a v).read a = v := by
  rw [Memory.write, if_pos ha]; exact Memory.read_insert_same v h

/-- Read after write, another address (20_memory.md R58). -/
theorem Memory.read_write_other {a c : Nat} (m : Memory) (v : Byte) (hc : c ≠ a) : (m.write a v).read c = m.read c := by
  unfold Memory.write; split
  · exact Memory.read_insert_other m v hc
  · rfl

/-- `write` keeps the canonical form. -/
theorem Memory.write_wf {m : Memory} (a : Nat) (v : Byte) (h : m.wf = true) : (m.write a v).wf = true := by
  unfold Memory.write; split
  · exact Memory.wfFrom_insert v h (Nat.zero_le a) ‹_›
  · exact h

/-- `writeBytes` keeps the canonical form. -/
theorem Memory.writeBytes_wf {m : Memory} (base : Nat) (l : List Byte) (h : m.wf = true) : (m.writeBytes base l).wf = true := by
  induction l generalizing m base with
  | nil => exact h
  | cons b bs ih => exact ih (base + 1) (Memory.write_wf base b h)

/-- Outside the bytes written, every byte reads as before. -/
theorem Memory.read_writeBytes_outside {a : Nat} (m : Memory) (base : Nat) (l : List Byte) (ha : a < base ∨ base + l.length ≤ a) :
    (m.writeBytes base l).read a = m.read a := by
  induction l generalizing m base with
  | nil => rfl
  | cons b bs ih =>
    simp only [List.length_cons] at ha
    rw [Memory.writeBytes, ih _ _ (by omega), Memory.read_write_other _ _ (by omega)]

/-- The k-th byte written reads back. -/
theorem Memory.read_writeBytes_inside {m : Memory} {base k : Nat} {l : List Byte} (h : m.wf = true) (hk : k < l.length)
    (hm : base + k < Config.memSize) : (m.writeBytes base l).read (base + k) = l[k] := by
  induction l generalizing m base k with
  | nil => simp at hk
  | cons b bs ih =>
    rw [Memory.writeBytes]
    cases k with
    | zero =>
      rw [Memory.read_writeBytes_outside _ _ _ (by omega)]
      exact Memory.read_write_same b h (by omega)
    | succ k =>
      have := ih (m := m.write base b) (base := base + 1) (k := k) (Memory.write_wf base b h)
        (by simpa using hk) (by omega)
      simpa [Nat.add_assoc, Nat.add_comm 1 k] using this

/-- Dropping entries keeps the canonical form. -/
theorem Memory.filter_wfFrom {lo : Nat} {m : Memory} (p : Host.Cell → Bool) (h : Memory.wfFrom lo m = true) :
    Memory.wfFrom lo (m.filter p) = true := by
  induction m generalizing lo with
  | nil => rfl
  | cons c rest ih =>
    obtain ⟨k, b⟩ := c
    obtain ⟨h1, h2, h3, h4⟩ := Memory.wfFrom_cons.mp h
    rw [List.filter_cons]
    split
    · exact Memory.wfFrom_cons.mpr ⟨h1, h2, h3, ih h4⟩
    · exact Memory.wfFrom_mono (ih h4) (by omega)

/-- RESET keeps the canonical form, under either policy. -/
theorem memoryAfterReset_wf {m : Memory} (romLen : Nat) (h : m.wf = true) : (memoryAfterReset m romLen).wf = true := by
  unfold memoryAfterReset; split
  · exact h
  · exact Memory.filter_wfFrom _ h

/-- The memory of the reset state has the canonical form. -/
theorem State.reset_mem_wf : State.reset.mem.wf = true := rfl

/-! ## The range check -/

/-- No address is out of range exactly where every byte lies below 4096. -/
theorem outOfRange_eq_none {base count : Nat} : outOfRange base count = none ↔ count = 0 ∨ base + count ≤ Config.memSize := by
  unfold outOfRange; split <;> simp_all

/-- An out-of-range access, with the lowest bad address. -/
theorem outOfRange_eq_some {base count a : Nat} :
    outOfRange base count = some a ↔ 0 < count ∧ Config.memSize < base + count ∧ a = max base Config.memSize := by
  unfold outOfRange; split <;> simp_all <;> omega

/-- All that a range-checked instruction can answer: the fault record alone is set, or the given state. -/
theorem State.rangeChecked_cases (s : State) (i : Instr) (base count : Nat) (t : State) :
    (0 < count ∧ Config.memSize < base + count ∧ s.rangeChecked i base count t =
        .next (s.raise (.memoryOutOfBounds (encode i) s.fetchAddr (max base Config.memSize)))) ∨
    ((count = 0 ∨ base + count ≤ Config.memSize) ∧ s.rangeChecked i base count t = .next t) := by
  unfold State.rangeChecked
  cases h : outOfRange base count with
  | none => exact .inr ⟨outOfRange_eq_none.mp h, rfl⟩
  | some a =>
    obtain ⟨h1, h2, rfl⟩ := outOfRange_eq_some.mp h
    exact .inl ⟨h1, h2, rfl⟩

/-- A range-checked instruction whose bytes all exist. -/
theorem State.rangeChecked_ok (s t : State) (i : Instr) {base count : Nat} (h : count = 0 ∨ base + count ≤ Config.memSize) :
    s.rangeChecked i base count t = .next t := by
  rw [State.rangeChecked, outOfRange_eq_none.mpr h]

/-- A range-checked instruction one of whose bytes does not exist. -/
theorem State.rangeChecked_bad (s t : State) (i : Instr) {base count : Nat} (hc : 0 < count) (h : Config.memSize < base + count) :
    s.rangeChecked i base count t = .next (s.raise (.memoryOutOfBounds (encode i) s.fetchAddr (max base Config.memSize))) := by
  rw [State.rangeChecked, outOfRange_eq_some.mpr ⟨hc, h, rfl⟩]

end Sys2Proof.Machine
end

