-- ==== Sys2Proof/Laws/Registers.lean ====
section
/-!
SUPPORT. The laws of the shared register operations: result and flag, the loop that loads registers, the registers stored.
-/

namespace Sys2Proof.Machine

/-- After a result and its flag: the flag in `VF`, the result in `V[x]` unless `x = F` (10_state.md R21). -/
theorem State.setResultAndFlag_reg (s : State) (x z : RegIx) (r f : Byte) :
    (s.setResultAndFlag x r f).reg z = if z = vf then f else if z = x then r else s.reg z := by
  rw [State.setResultAndFlag, State.reg_setReg, State.reg_setReg]

@[simp] theorem State.setResultAndFlag_vf (s : State) (x : RegIx) (r f : Byte) : (s.setResultAndFlag x r f).reg vf = f := by
  simp [State.setResultAndFlag_reg]

/-- A result and its flag change no part but `V[x]` and `VF`. -/
theorem State.setResultAndFlag_onlyChanges (s : State) (x : RegIx) (r f : Byte) :
    OnlyChanges [.reg x, .reg vf] s (s.setResultAndFlag x r f) := by
  constructor <;> intros <;> first | rfl | skip
  next z hz =>
    simp only [List.mem_cons, Part.reg.injEq, List.not_mem_nil, or_false, not_or] at hz
    simp [State.setResultAndFlag_reg, hz]

/-- A register write changes no part but the register. -/
theorem State.setReg_onlyChanges (s : State) (x : RegIx) (b : Byte) : OnlyChanges [.reg x] s (s.setReg x b) := by
  constructor <;> intros <;> first | rfl | skip
  next z hz =>
    simp only [List.mem_cons, Part.reg.injEq, List.not_mem_nil, or_false] at hz
    exact State.reg_setReg_other s b hz

/-- The loading loop, one round. -/
theorem State.loadRegs_succ (s : State) (base n : Nat) :
    s.loadRegs base (n + 1) = (s.loadRegs base n).setReg (BitVec.ofNat 4 n) (s.mem.read (base + n)) := by
  simp [State.loadRegs, List.range_succ, List.foldl_append]

/-- The loading loop writes no other state than the register vector. -/
theorem State.loadRegs_eq (s : State) (base n : Nat) : s.loadRegs base n = { s with v := (s.loadRegs base n).v } := by
  induction n with
  | zero => rfl
  | succ n ih => rw [State.loadRegs_succ, ih]; rfl

/-- What the loading loop leaves in each register (46_memory_transfer.md R172). -/
theorem State.loadRegs_reg (s : State) (base : Nat) (x : RegIx) {n : Nat} (hn : n ≤ 16) :
    (s.loadRegs base n).reg x = if x.toNat < n then s.mem.read (base + x.toNat) else s.reg x := by
  induction n with
  | zero => simp [State.loadRegs]
  | succ n ih =>
    rw [State.loadRegs_succ, State.reg_setReg, ih (by omega)]
    have hx : x = BitVec.ofNat 4 n ↔ x.toNat = n := by
      rw [← BitVec.toNat_inj, BitVec.toNat_ofNat, Nat.mod_eq_of_lt (by omega)]
    by_cases h : x.toNat = n
    · rw [if_pos (hx.mpr h), if_pos (by omega), h]
    · rw [if_neg (fun e => h (hx.mp e))]
      by_cases h' : x.toNat < n
      · rw [if_pos h', if_pos (by omega)]
      · rw [if_neg h', if_neg (by omega)]

@[simp] theorem State.firstRegs_length (s : State) (n : Nat) : (s.firstRegs n).length = n := by simp [State.firstRegs]

/-- The k-th register stored (46_memory_transfer.md R171). -/
theorem State.firstRegs_get (s : State) {n k : Nat} (h : k < (s.firstRegs n).length) :
    (s.firstRegs n)[k] = s.reg (BitVec.ofNat 4 k) := by
  simp [State.firstRegs]

end Sys2Proof.Machine
end

