-- ==== Sys2Proof/Laws/Step.lean ====
section
/-!
SUPPORT. What each phase of a cycle leaves in each field, and what a step can do: one inversion lemma (step_cases), from which
every claim about steps follows without unfolding the cycle.
-/

namespace Sys2Proof.Machine

variable (s : State)

/-! ## The guard of a fault -/

@[simp] theorem State.unlessFaulted_some {f : FaultRecord} (g : State → State) (h : s.fault = some f) : s.unlessFaulted g = s := by
  simp [State.unlessFaulted, h]
@[simp] theorem State.unlessFaulted_none (g : State → State) (h : s.fault = none) : s.unlessFaulted g = g s := by
  simp [State.unlessFaulted, h]
/-- Either the fault stands and nothing happened, or the phase ran. -/
theorem State.unlessFaulted_cases (g : State → State) :
    ((∃ f, s.fault = some f) ∧ s.unlessFaulted g = s) ∨ (s.fault = none ∧ s.unlessFaulted g = g s) := by
  cases h : s.fault with
  | none => exact .inr ⟨rfl, s.unlessFaulted_none g h⟩
  | some f => exact .inl ⟨⟨f, rfl⟩, s.unlessFaulted_some g h⟩

/-! ## The tick -/

@[simp] theorem State.timerTick_dt : s.timerTick.dt = countDown s.dt := rfl
@[simp] theorem State.timerTick_st : s.timerTick.st = countDown s.st := rfl

/-- `countDown` on numbers: one less, and never below 0 (60_exceptions.md R209). -/
theorem countDown_toNat (b : Byte) : (countDown b).toNat = b.toNat - 1 := by
  unfold countDown
  split
  · subst_vars; rfl
  · rename_i h
    have hb : b.toNat ≠ 0 := fun e => h (BitVec.eq_of_toNat_eq (by simpa using e))
    have := b.isLt
    rw [BitVec.toNat_sub]; simp; omega

@[simp] theorem State.timerTick_v : s.timerTick.v = s.v := rfl
@[simp] theorem State.tickPhase_v : s.tickPhase.v = s.v := by unfold State.tickPhase; split <;> rfl
@[simp] theorem State.timerTick_i : s.timerTick.i = s.i := rfl
@[simp] theorem State.tickPhase_i : s.tickPhase.i = s.i := by unfold State.tickPhase; split <;> rfl
@[simp] theorem State.timerTick_pc : s.timerTick.pc = s.pc := rfl
@[simp] theorem State.tickPhase_pc : s.tickPhase.pc = s.pc := by unfold State.tickPhase; split <;> rfl
@[simp] theorem State.timerTick_stack : s.timerTick.stack = s.stack := rfl
@[simp] theorem State.tickPhase_stack : s.tickPhase.stack = s.stack := by unfold State.tickPhase; split <;> rfl
@[simp] theorem State.timerTick_mem : s.timerTick.mem = s.mem := rfl
@[simp] theorem State.tickPhase_mem : s.tickPhase.mem = s.mem := by unfold State.tickPhase; split <;> rfl
@[simp] theorem State.timerTick_fb : s.timerTick.fb = s.fb := rfl
@[simp] theorem State.tickPhase_fb : s.tickPhase.fb = s.fb := by unfold State.tickPhase; split <;> rfl
@[simp] theorem State.timerTick_paused : s.timerTick.paused = s.paused := rfl
@[simp] theorem State.tickPhase_paused : s.tickPhase.paused = s.paused := by unfold State.tickPhase; split <;> rfl
@[simp] theorem State.timerTick_stepMode : s.timerTick.stepMode = s.stepMode := rfl
@[simp] theorem State.tickPhase_stepMode : s.tickPhase.stepMode = s.stepMode := by unfold State.tickPhase; split <;> rfl
@[simp] theorem State.timerTick_stepArmed : s.timerTick.stepArmed = s.stepArmed := rfl
@[simp] theorem State.tickPhase_stepArmed : s.tickPhase.stepArmed = s.stepArmed := by unfold State.tickPhase; split <;> rfl
@[simp] theorem State.timerTick_quit : s.timerTick.quit = s.quit := rfl
@[simp] theorem State.tickPhase_quit : s.tickPhase.quit = s.quit := by unfold State.tickPhase; split <;> rfl
@[simp] theorem State.timerTick_debugEnabled : s.timerTick.debugEnabled = s.debugEnabled := rfl
@[simp] theorem State.tickPhase_debugEnabled : s.tickPhase.debugEnabled = s.debugEnabled := by unfold State.tickPhase; split <;> rfl
@[simp] theorem State.timerTick_fault : s.timerTick.fault = s.fault := rfl
@[simp] theorem State.tickPhase_fault : s.tickPhase.fault = s.fault := by unfold State.tickPhase; split <;> rfl
@[simp] theorem State.timerTick_romLen : s.timerTick.romLen = s.romLen := rfl
@[simp] theorem State.tickPhase_romLen : s.tickPhase.romLen = s.romLen := by unfold State.tickPhase; split <;> rfl
@[simp] theorem State.timerTick_presents : s.timerTick.presents = s.presents := rfl
@[simp] theorem State.tickPhase_presents : s.tickPhase.presents = s.presents := by unfold State.tickPhase; split <;> rfl
@[simp] theorem State.timerTick_inputs : s.timerTick.inputs = s.inputs := rfl
@[simp] theorem State.tickPhase_inputs : s.tickPhase.inputs = s.inputs := by unfold State.tickPhase; split <;> rfl
@[simp] theorem State.timerTick_cycle : s.timerTick.cycle = s.cycle := rfl
@[simp] theorem State.tickPhase_cycle : s.tickPhase.cycle = s.cycle := by unfold State.tickPhase; split <;> rfl
@[simp] theorem State.tickPhase_reg (z : RegIx) : s.tickPhase.reg z = s.reg z := by simp [State.reg]
@[simp] theorem State.tickPhase_input : s.tickPhase.input = s.input := by simp [State.input]
@[simp] theorem State.tickPhase_gateOpen : s.tickPhase.gateOpen = s.gateOpen := by simp [State.gateOpen]

/-- The timers after the tick phase: both counted down where the gate is open and the draw says so (60_exceptions.md R209). -/
theorem State.tickPhase_timers :
    s.tickPhase.dt = (if s.gateOpen && s.input.tick then countDown s.dt else s.dt) ∧
      s.tickPhase.st = (if s.gateOpen && s.input.tick then countDown s.st else s.st) := by
  simp only [State.tickPhase, Params.tickWhileGated, Bool.false_or]
  split <;> simp

/-! ## The phases after execution -/

@[simp] theorem State.disarm_v : s.disarm.v = s.v := rfl
@[simp] theorem State.disarm_i : s.disarm.i = s.i := rfl
@[simp] theorem State.disarm_pc : s.disarm.pc = s.pc := rfl
@[simp] theorem State.disarm_stack : s.disarm.stack = s.stack := rfl
@[simp] theorem State.disarm_mem : s.disarm.mem = s.mem := rfl
@[simp] theorem State.disarm_fb : s.disarm.fb = s.fb := rfl
@[simp] theorem State.disarm_dt : s.disarm.dt = s.dt := rfl
@[simp] theorem State.disarm_st : s.disarm.st = s.st := rfl
@[simp] theorem State.disarm_paused : s.disarm.paused = s.paused := rfl
@[simp] theorem State.disarm_stepMode : s.disarm.stepMode = s.stepMode := rfl
@[simp] theorem State.disarm_quit : s.disarm.quit = s.quit := rfl
@[simp] theorem State.disarm_debugEnabled : s.disarm.debugEnabled = s.debugEnabled := rfl
@[simp] theorem State.disarm_fault : s.disarm.fault = s.fault := rfl
@[simp] theorem State.disarm_romLen : s.disarm.romLen = s.romLen := rfl
@[simp] theorem State.disarm_presents : s.disarm.presents = s.presents := rfl
@[simp] theorem State.disarm_inputs : s.disarm.inputs = s.inputs := rfl
@[simp] theorem State.disarm_cycle : s.disarm.cycle = s.cycle := rfl
@[simp] theorem State.disarm_stepArmed : s.disarm.stepArmed = false := rfl

@[simp] theorem State.unlessFaulted_disarm_v : (s.unlessFaulted State.disarm).v = s.v := by
  unfold State.unlessFaulted; split <;> rfl
@[simp] theorem State.unlessFaulted_disarm_i : (s.unlessFaulted State.disarm).i = s.i := by
  unfold State.unlessFaulted; split <;> rfl
@[simp] theorem State.unlessFaulted_disarm_pc : (s.unlessFaulted State.disarm).pc = s.pc := by
  unfold State.unlessFaulted; split <;> rfl
@[simp] theorem State.unlessFaulted_disarm_stack : (s.unlessFaulted State.disarm).stack = s.stack := by
  unfold State.unlessFaulted; split <;> rfl
@[simp] theorem State.unlessFaulted_disarm_mem : (s.unlessFaulted State.disarm).mem = s.mem := by
  unfold State.unlessFaulted; split <;> rfl
@[simp] theorem State.unlessFaulted_disarm_fb : (s.unlessFaulted State.disarm).fb = s.fb := by
  unfold State.unlessFaulted; split <;> rfl
@[simp] theorem State.unlessFaulted_disarm_dt : (s.unlessFaulted State.disarm).dt = s.dt := by
  unfold State.unlessFaulted; split <;> rfl
@[simp] theorem State.unlessFaulted_disarm_st : (s.unlessFaulted State.disarm).st = s.st := by
  unfold State.unlessFaulted; split <;> rfl
@[simp] theorem State.unlessFaulted_disarm_paused : (s.unlessFaulted State.disarm).paused = s.paused := by
  unfold State.unlessFaulted; split <;> rfl
@[simp] theorem State.unlessFaulted_disarm_stepMode : (s.unlessFaulted State.disarm).stepMode = s.stepMode := by
  unfold State.unlessFaulted; split <;> rfl
@[simp] theorem State.unlessFaulted_disarm_quit : (s.unlessFaulted State.disarm).quit = s.quit := by
  unfold State.unlessFaulted; split <;> rfl
@[simp] theorem State.unlessFaulted_disarm_debugEnabled : (s.unlessFaulted State.disarm).debugEnabled = s.debugEnabled := by
  unfold State.unlessFaulted; split <;> rfl
@[simp] theorem State.unlessFaulted_disarm_fault : (s.unlessFaulted State.disarm).fault = s.fault := by
  unfold State.unlessFaulted; split <;> rfl
@[simp] theorem State.unlessFaulted_disarm_romLen : (s.unlessFaulted State.disarm).romLen = s.romLen := by
  unfold State.unlessFaulted; split <;> rfl
@[simp] theorem State.unlessFaulted_disarm_presents : (s.unlessFaulted State.disarm).presents = s.presents := by
  unfold State.unlessFaulted; split <;> rfl
@[simp] theorem State.unlessFaulted_disarm_inputs : (s.unlessFaulted State.disarm).inputs = s.inputs := by
  unfold State.unlessFaulted; split <;> rfl
@[simp] theorem State.unlessFaulted_disarm_cycle : (s.unlessFaulted State.disarm).cycle = s.cycle := by
  unfold State.unlessFaulted; split <;> rfl

@[simp] theorem State.disarmStep_v : s.disarmStep.v = s.v := by unfold State.disarmStep; split <;> simp
@[simp] theorem State.disarmStep_i : s.disarmStep.i = s.i := by unfold State.disarmStep; split <;> simp
@[simp] theorem State.disarmStep_pc : s.disarmStep.pc = s.pc := by unfold State.disarmStep; split <;> simp
@[simp] theorem State.disarmStep_stack : s.disarmStep.stack = s.stack := by unfold State.disarmStep; split <;> simp
@[simp] theorem State.disarmStep_mem : s.disarmStep.mem = s.mem := by unfold State.disarmStep; split <;> simp
@[simp] theorem State.disarmStep_fb : s.disarmStep.fb = s.fb := by unfold State.disarmStep; split <;> simp
@[simp] theorem State.disarmStep_dt : s.disarmStep.dt = s.dt := by unfold State.disarmStep; split <;> simp
@[simp] theorem State.disarmStep_st : s.disarmStep.st = s.st := by unfold State.disarmStep; split <;> simp
@[simp] theorem State.disarmStep_paused : s.disarmStep.paused = s.paused := by unfold State.disarmStep; split <;> simp
@[simp] theorem State.disarmStep_stepMode : s.disarmStep.stepMode = s.stepMode := by unfold State.disarmStep; split <;> simp
@[simp] theorem State.disarmStep_quit : s.disarmStep.quit = s.quit := by unfold State.disarmStep; split <;> simp
@[simp] theorem State.disarmStep_debugEnabled : s.disarmStep.debugEnabled = s.debugEnabled := by unfold State.disarmStep; split <;> simp
@[simp] theorem State.disarmStep_romLen : s.disarmStep.romLen = s.romLen := by unfold State.disarmStep; split <;> simp
@[simp] theorem State.disarmStep_inputs : s.disarmStep.inputs = s.inputs := by unfold State.disarmStep; split <;> simp
@[simp] theorem State.disarmStep_cycle : s.disarmStep.cycle = s.cycle := by unfold State.disarmStep; split <;> simp
@[simp] theorem State.disarmStep_input : s.disarmStep.input = s.input := by simp [State.input]
@[simp] theorem State.disarmStep_presents : s.disarmStep.presents =
    (if s.stepMode = true ∧ s.stepArmed = true then [s.fb] else []) ++ s.presents := by
  unfold State.disarmStep
  by_cases h : s.stepMode = true ∧ s.stepArmed = true
  · simp [h]
  · rw [if_neg (by simpa using h), if_neg h]; rfl

/-- The step disarm where no draw of its own fails: the present, if there is one, and the step disarmed (60_exceptions.md R219). -/
theorem State.disarmStep_succeeds (hf : s.fault = none)
    (hd : s.stepMode = true → s.stepArmed = true → PresentSite.stepDisarm ∉ s.input.failing) :
    s.disarmStep = { s with
      stepArmed := s.stepArmed && !s.stepMode,
      presents := (if s.stepMode = true ∧ s.stepArmed = true then [s.fb] else []) ++ s.presents } := by
  unfold State.disarmStep
  by_cases h : s.stepMode = true ∧ s.stepArmed = true
  · have hp := s.present_succeeds (hd h.1 h.2)
    simp [h, hp, State.unlessFaulted, hf, State.disarm]
  · rw [if_neg (by simpa using h), if_neg h]
    cases hm : s.stepMode <;> cases ha : s.stepArmed <;> simp_all <;> (cases s; simp_all)

/-- The step disarm whose draw fails: the present is out, the step still armed (60_exceptions.md R207, R219; log entry 15). -/
theorem State.disarmStep_fails (hm : s.stepMode = true) (ha : s.stepArmed = true)
    (hd : PresentSite.stepDisarm ∈ s.input.failing) :
    s.disarmStep = { s with presents := s.fb :: s.presents, fault := some .backendError } := by
  unfold State.disarmStep
  simp only [hm, ha, Bool.and_true, if_true, s.present_fails hd]
  exact State.unlessFaulted_some _ _ rfl

@[simp] theorem State.pauseSignal_v : s.pauseSignal.v = s.v := by unfold State.pauseSignal; split <;> simp
@[simp] theorem State.pauseSignal_i : s.pauseSignal.i = s.i := by unfold State.pauseSignal; split <;> simp
@[simp] theorem State.pauseSignal_pc : s.pauseSignal.pc = s.pc := by unfold State.pauseSignal; split <;> simp
@[simp] theorem State.pauseSignal_stack : s.pauseSignal.stack = s.stack := by unfold State.pauseSignal; split <;> simp
@[simp] theorem State.pauseSignal_mem : s.pauseSignal.mem = s.mem := by unfold State.pauseSignal; split <;> simp
@[simp] theorem State.pauseSignal_fb : s.pauseSignal.fb = s.fb := by unfold State.pauseSignal; split <;> simp
@[simp] theorem State.pauseSignal_dt : s.pauseSignal.dt = s.dt := by unfold State.pauseSignal; split <;> simp
@[simp] theorem State.pauseSignal_st : s.pauseSignal.st = s.st := by unfold State.pauseSignal; split <;> simp
@[simp] theorem State.pauseSignal_stepMode : s.pauseSignal.stepMode = s.stepMode := by unfold State.pauseSignal; split <;> simp
@[simp] theorem State.pauseSignal_stepArmed : s.pauseSignal.stepArmed = s.stepArmed := by unfold State.pauseSignal; split <;> simp
@[simp] theorem State.pauseSignal_quit : s.pauseSignal.quit = s.quit := by unfold State.pauseSignal; split <;> simp
@[simp] theorem State.pauseSignal_debugEnabled : s.pauseSignal.debugEnabled = s.debugEnabled := by unfold State.pauseSignal; split <;> simp
@[simp] theorem State.pauseSignal_romLen : s.pauseSignal.romLen = s.romLen := by unfold State.pauseSignal; split <;> simp
@[simp] theorem State.pauseSignal_inputs : s.pauseSignal.inputs = s.inputs := by unfold State.pauseSignal; split <;> simp
@[simp] theorem State.pauseSignal_cycle : s.pauseSignal.cycle = s.cycle := by unfold State.pauseSignal; split <;> simp
@[simp] theorem State.pauseSignal_input : s.pauseSignal.input = s.input := by simp [State.input]
@[simp] theorem State.toggleStepModeSignal_v : s.toggleStepModeSignal.v = s.v := by unfold State.toggleStepModeSignal; split <;> simp
@[simp] theorem State.toggleStepModeSignal_i : s.toggleStepModeSignal.i = s.i := by unfold State.toggleStepModeSignal; split <;> simp
@[simp] theorem State.toggleStepModeSignal_pc : s.toggleStepModeSignal.pc = s.pc := by unfold State.toggleStepModeSignal; split <;> simp
@[simp] theorem State.toggleStepModeSignal_stack : s.toggleStepModeSignal.stack = s.stack := by unfold State.toggleStepModeSignal; split <;> simp
@[simp] theorem State.toggleStepModeSignal_mem : s.toggleStepModeSignal.mem = s.mem := by unfold State.toggleStepModeSignal; split <;> simp
@[simp] theorem State.toggleStepModeSignal_fb : s.toggleStepModeSignal.fb = s.fb := by unfold State.toggleStepModeSignal; split <;> simp
@[simp] theorem State.toggleStepModeSignal_dt : s.toggleStepModeSignal.dt = s.dt := by unfold State.toggleStepModeSignal; split <;> simp
@[simp] theorem State.toggleStepModeSignal_st : s.toggleStepModeSignal.st = s.st := by unfold State.toggleStepModeSignal; split <;> simp
@[simp] theorem State.toggleStepModeSignal_paused : s.toggleStepModeSignal.paused = s.paused := by unfold State.toggleStepModeSignal; split <;> simp
@[simp] theorem State.toggleStepModeSignal_stepArmed : s.toggleStepModeSignal.stepArmed = s.stepArmed := by unfold State.toggleStepModeSignal; split <;> simp
@[simp] theorem State.toggleStepModeSignal_quit : s.toggleStepModeSignal.quit = s.quit := by unfold State.toggleStepModeSignal; split <;> simp
@[simp] theorem State.toggleStepModeSignal_debugEnabled : s.toggleStepModeSignal.debugEnabled = s.debugEnabled := by unfold State.toggleStepModeSignal; split <;> simp
@[simp] theorem State.toggleStepModeSignal_romLen : s.toggleStepModeSignal.romLen = s.romLen := by unfold State.toggleStepModeSignal; split <;> simp
@[simp] theorem State.toggleStepModeSignal_inputs : s.toggleStepModeSignal.inputs = s.inputs := by unfold State.toggleStepModeSignal; split <;> simp
@[simp] theorem State.toggleStepModeSignal_cycle : s.toggleStepModeSignal.cycle = s.cycle := by unfold State.toggleStepModeSignal; split <;> simp
@[simp] theorem State.toggleStepModeSignal_input : s.toggleStepModeSignal.input = s.input := by simp [State.input]
@[simp] theorem State.resetTransition_v : s.resetTransition.v = Vector.replicate 16 0#8 := by simp [State.resetTransition]
@[simp] theorem State.resetTransition_i : s.resetTransition.i = 0#16 := by simp [State.resetTransition]
@[simp] theorem State.resetTransition_pc : s.resetTransition.pc = 0x200#16 := by simp [State.resetTransition]
@[simp] theorem State.resetTransition_stack : s.resetTransition.stack = [] := by simp [State.resetTransition]
@[simp] theorem State.resetTransition_mem : s.resetTransition.mem = memoryAfterReset s.mem s.romLen := by simp [State.resetTransition]
@[simp] theorem State.resetTransition_fb : s.resetTransition.fb = Framebuffer.clear := by simp [State.resetTransition]
@[simp] theorem State.resetTransition_dt : s.resetTransition.dt = 0#8 := by simp [State.resetTransition]
@[simp] theorem State.resetTransition_st : s.resetTransition.st = 0#8 := by simp [State.resetTransition]
@[simp] theorem State.resetTransition_paused : s.resetTransition.paused = s.paused := by simp [State.resetTransition]
@[simp] theorem State.resetTransition_stepMode : s.resetTransition.stepMode = s.stepMode := by simp [State.resetTransition]
@[simp] theorem State.resetTransition_stepArmed : s.resetTransition.stepArmed = s.stepArmed := by simp [State.resetTransition]
@[simp] theorem State.resetTransition_quit : s.resetTransition.quit = s.quit := by simp [State.resetTransition]
@[simp] theorem State.resetTransition_debugEnabled : s.resetTransition.debugEnabled = s.debugEnabled := by simp [State.resetTransition]
@[simp] theorem State.resetTransition_romLen : s.resetTransition.romLen = s.romLen := by simp [State.resetTransition]
@[simp] theorem State.resetTransition_inputs : s.resetTransition.inputs = s.inputs := by simp [State.resetTransition]
@[simp] theorem State.resetTransition_cycle : s.resetTransition.cycle = s.cycle := by simp [State.resetTransition]
@[simp] theorem State.resetTransition_reg (z : RegIx) : s.resetTransition.reg z = 0#8 := by simp [State.reg]

/-- Under the policy of this hardware RESET writes no memory byte (70_reset_and_hazards.md R243). -/
theorem memoryAfterReset_eq (m : Memory) (n : Nat) : memoryAfterReset m n = m := rfl

/-- A signal applied: nothing happened (it was not delivered, or a fault stands), or the signal's effect. -/
theorem State.onSignal_cases (d : Bool) (g : State → State) :
    (s.onSignal d g = s ∧ (d = false ∨ ∃ f, s.fault = some f)) ∨ (s.onSignal d g = g s ∧ d = true ∧ s.fault = none) := by
  unfold State.onSignal
  rcases s.unlessFaulted_cases (fun t => if d then g t else t) with ⟨hf, h⟩ | ⟨hf, h⟩
  · exact .inl ⟨h, .inr hf⟩
  · cases d with
    | false => exact .inl ⟨by simpa using h, .inl rfl⟩
    | true => exact .inr ⟨by simpa using h, rfl, hf⟩

/-- What every signal keeps, the poll keeps. -/
theorem State.applySignals_induction {P : State → Prop} (g : Signals) (h : P s)
    (hq : ∀ t, P t → P { t with quit := true }) (hp : ∀ t, P t → P t.pauseSignal)
    (ht : ∀ t, P t → P t.toggleStepModeSignal) (ha : ∀ t, P t → P t.advanceStepSignal)
    (hr : ∀ t, P t → P t.resetTransition) : P (s.applySignals g) := by
  have on : ∀ (t : State) (d : Bool) (k : State → State), P t → (∀ u, P u → P (k u)) → P (t.onSignal d k) := by
    intro t d k hP hk
    rcases t.onSignal_cases d k with ⟨e, -⟩ | ⟨e, -⟩
    · rw [e]; exact hP
    · rw [e]; exact hk t hP
  unfold State.applySignals
  split
  · exact hq s h
  · exact on _ _ _ (on _ _ _ (on _ _ _ (on _ _ _ h hp) ht) ha) hr

/-- What each phase after execution keeps, the rest of the cycle keeps. -/
theorem State.finishCycle_induction {P : State → Prop} (h : P s) (hd : ∀ t, P t → P t.disarmStep)
    (hs : ∀ t g, P t → P (t.applySignals g)) (hb : ∀ t, P t → P (t.raise .backendError)) (hn : ∀ t, P t → P t.nextInput) :
    P s.finishCycle := by
  have ph : ∀ (t : State) (k : State → State), P t → (∀ u, P u → P (k u)) → P (t.unlessFaulted k) := by
    intro t k hP hk
    rcases t.unlessFaulted_cases k with ⟨-, e⟩ | ⟨-, e⟩
    · rw [e]; exact hP
    · rw [e]; exact hk t hP
  refine ph _ _ (ph _ _ (ph _ _ h hd) ?_) hn
  intro t ht
  unfold State.pollPhase
  split
  · exact hs t _ ht
  · exact hb t ht

/-- A faulted state is left alone by the rest of the cycle (60_exceptions.md R202). -/
theorem State.finishCycle_faulted {f : FaultRecord} (h : s.fault = some f) : s.finishCycle = s := by
  unfold State.finishCycle
  rw [s.unlessFaulted_some _ h, s.unlessFaulted_some _ h, s.unlessFaulted_some _ h]

/-- The rest of the cycle where no draw of the step disarm fails: the poll on the disarmed state, then the end of the cycle. -/
theorem State.finishCycle_poll (hf : s.fault = none)
    (hd : s.stepMode = true → s.stepArmed = true → PresentSite.stepDisarm ∉ s.input.failing) :
    s.finishCycle = (State.pollPhase { s with
      stepArmed := s.stepArmed && !s.stepMode,
      presents := (if s.stepMode = true ∧ s.stepArmed = true then [s.fb] else []) ++ s.presents }).unlessFaulted
        State.nextInput := by
  unfold State.finishCycle
  rw [s.unlessFaulted_none _ hf, s.disarmStep_succeeds hf hd]
  congr 1
  exact State.unlessFaulted_none _ _ hf

/-- The same with the signals polled (60_exceptions.md R215). -/
theorem State.finishCycle_signals {g : Signals} (hf : s.fault = none)
    (hd : s.stepMode = true → s.stepArmed = true → PresentSite.stepDisarm ∉ s.input.failing) (hp : s.input.poll = .signals g) :
    s.finishCycle = (State.applySignals { s with
      stepArmed := s.stepArmed && !s.stepMode,
      presents := (if s.stepMode = true ∧ s.stepArmed = true then [s.fb] else []) ++ s.presents } g).unlessFaulted
        State.nextInput := by
  rw [s.finishCycle_poll hf hd]
  congr 1
  unfold State.pollPhase
  change (match s.input.poll with | .signals g => State.applySignals _ g | .failed => _) = _
  rw [hp]

/-- The same with a poll that fails (60_exceptions.md R207). -/
theorem State.finishCycle_poll_fails (hf : s.fault = none)
    (hd : s.stepMode = true → s.stepArmed = true → PresentSite.stepDisarm ∉ s.input.failing) (hp : s.input.poll = .failed) :
    s.finishCycle = { s with
      stepArmed := s.stepArmed && !s.stepMode,
      presents := (if s.stepMode = true ∧ s.stepArmed = true then [s.fb] else []) ++ s.presents,
      fault := some .backendError } := by
  rw [s.finishCycle_poll hf hd]
  unfold State.pollPhase
  change (match s.input.poll with | .signals g => State.applySignals _ g | .failed => State.raise _ _ : State).unlessFaulted _ = _
  rw [hp]
  rfl

/-- The rest of the cycle where the draw of the step disarm fails (60_exceptions.md R207, R219; log entry 15). -/
theorem State.finishCycle_disarm_fails (hf : s.fault = none) (hm : s.stepMode = true) (ha : s.stepArmed = true)
    (hd : PresentSite.stepDisarm ∈ s.input.failing) :
    s.finishCycle = { s with presents := s.fb :: s.presents, fault := some .backendError } := by
  unfold State.finishCycle
  rw [s.unlessFaulted_none _ hf, s.disarmStep_fails hm ha hd]
  rfl

/-! ## The step -/

@[simp] theorem State.atExecute_pc : s.atExecute.pc = s.pc + 2#16 := rfl
@[simp] theorem State.atExecute_fetchAddr : s.atExecute.fetchAddr = s.pc := by simp [State.fetchAddr]

@[simp] theorem State.atExecute_v : s.atExecute.v = s.v := by simp [State.atExecute]
@[simp] theorem State.atExecute_i : s.atExecute.i = s.i := by simp [State.atExecute]
@[simp] theorem State.atExecute_stack : s.atExecute.stack = s.stack := by simp [State.atExecute]
@[simp] theorem State.atExecute_mem : s.atExecute.mem = s.mem := by simp [State.atExecute]
@[simp] theorem State.atExecute_fb : s.atExecute.fb = s.fb := by simp [State.atExecute]
@[simp] theorem State.atExecute_paused : s.atExecute.paused = s.paused := by simp [State.atExecute]
@[simp] theorem State.atExecute_stepMode : s.atExecute.stepMode = s.stepMode := by simp [State.atExecute]
@[simp] theorem State.atExecute_stepArmed : s.atExecute.stepArmed = s.stepArmed := by simp [State.atExecute]
@[simp] theorem State.atExecute_quit : s.atExecute.quit = s.quit := by simp [State.atExecute]
@[simp] theorem State.atExecute_debugEnabled : s.atExecute.debugEnabled = s.debugEnabled := by simp [State.atExecute]
@[simp] theorem State.atExecute_fault : s.atExecute.fault = s.fault := by simp [State.atExecute]
@[simp] theorem State.atExecute_romLen : s.atExecute.romLen = s.romLen := by simp [State.atExecute]
@[simp] theorem State.atExecute_presents : s.atExecute.presents = s.presents := by simp [State.atExecute]
@[simp] theorem State.atExecute_inputs : s.atExecute.inputs = s.inputs := by simp [State.atExecute]
@[simp] theorem State.atExecute_cycle : s.atExecute.cycle = s.cycle := by simp [State.atExecute]
@[simp] theorem State.atExecute_reg (z : RegIx) : s.atExecute.reg z = s.reg z := by simp [State.atExecute]
@[simp] theorem State.atExecute_input : s.atExecute.input = s.input := by simp [State.atExecute]

variable {s}

/-- A step of a running machine is its cycle. -/
theorem step_running (h : Running s) : step s = runCycle s := by simp [step, runOrStop, h.1, h.2]

/-- A cycle with the gate closed (70_reset_and_hazards.md R245). -/
theorem runCycle_closed (h : s.gateOpen = false) : runCycle s = .next s.tickPhase.finishCycle := by simp [runCycle, h]

/-- A cycle whose fetch is out of bounds (20_memory.md R57). -/
theorem runCycle_out_of_bounds (h : s.gateOpen = true) (hp : 0xFFE ≤ s.pc.toNat) :
    runCycle s = .next (s.tickPhase.raise (.programCounterOutOfBounds s.pc)) := by
  simp [runCycle, h, fetchAndExecute, State.fetch, Params.pcFaultLimit, hp]

/-- A cycle that fetches, as far as the decoder (20_memory.md R57, 70_reset_and_hazards.md R245). -/
theorem runCycle_fetched (h : s.gateOpen = true) (hp : s.pc.toNat < 0xFFE) :
    runCycle s =
      match decode s.nextWord with
      | .error _ => .next (s.atExecute.raise (.invalidOpcode s.nextWord s.pc))
      | .ok i => afterExec (exec i s.atExecute) := by
  have : ¬ 0xFFE ≤ s.pc.toNat := by omega
  simp only [runCycle, h, if_true, fetchAndExecute, State.fetch, Params.pcFaultLimit, State.tickPhase_pc, this, if_false,
    State.tickPhase_mem]
  rfl

/-- Everything a step that answers a next state can have done. -/
theorem step_cases {t : State} (h : step s = .next t) :
    Running s ∧
      ((s.gateOpen = false ∧ t = s.tickPhase.finishCycle) ∨
       (s.gateOpen = true ∧ 0xFFE ≤ s.pc.toNat ∧ t = s.tickPhase.raise (.programCounterOutOfBounds s.pc)) ∨
       (Fetches s ∧ (∃ e, decode s.nextWord = .error e) ∧ t = s.atExecute.raise (.invalidOpcode s.nextWord s.pc)) ∨
       (Fetches s ∧ ∃ i u, decode s.nextWord = .ok i ∧ exec i s.atExecute = .next u ∧ t = u.finishCycle)) := by
  have hrun : Running s := by
    unfold step runOrStop at h
    split at h
    · cases h
    · split at h
      · cases h
      · exact ⟨by simpa using ‹¬ s.quit = true›, ‹_›⟩
  refine ⟨hrun, ?_⟩
  rw [step_running hrun] at h
  cases hg : s.gateOpen with
  | false => rw [runCycle_closed hg] at h; cases h; exact .inl ⟨rfl, rfl⟩
  | true =>
    right
    by_cases hp : 0xFFE ≤ s.pc.toNat
    · rw [runCycle_out_of_bounds hg hp] at h; cases h; exact .inl ⟨rfl, hp, rfl⟩
    · have hf : Fetches s := ⟨hrun, hg, by omega⟩
      right
      rw [runCycle_fetched hg (by omega)] at h
      split at h
      · cases h; exact .inl ⟨hf, ⟨_, ‹_›⟩, rfl⟩
      · rename_i i hi
        cases hx : exec i s.atExecute with
        | next u => rw [hx] at h; cases h; exact .inr ⟨hf, i, u, hi, hx, rfl⟩
        | fault r => rw [hx] at h; cases h
        | refused r => rw [hx] at h; cases h

end Sys2Proof.Machine
end

