-- ==== Sys2Proof/Laws/Exec.lean ====
section
/-!
SUPPORT. What an instruction, and the rest of the cycle, can do to one function of the state: each shared operation is asked
once, and no meaning is unfolded again.
-/

namespace Sys2Proof.Machine

/-- The two ways a range-checked instruction answers a next state. -/
theorem State.rangeChecked_next {s t u : State} {i : Instr} {base count : Nat} (h : s.rangeChecked i base count u = .next t) :
    (0 < count ∧ Config.memSize < base + count ∧
      t = s.raise (.memoryOutOfBounds (encode i) s.fetchAddr (max base Config.memSize))) ∨ t = u := by
  rcases s.rangeChecked_cases i base count u with ⟨h1, h2, e⟩ | ⟨-, e⟩ <;> rw [e] at h <;> cases h
  · exact .inl ⟨h1, h2, rfl⟩
  · exact .inr rfl

/-- What every shared operation keeps, every instruction keeps. -/
theorem exec_preserves {α : Type} (F : State → α) {i : Instr} {s t : State} (h : exec i s = .next t)
    (hreg : ∀ u x b, F (State.setReg u x b) = F u) (hi : ∀ u a, F (State.setI u a) = F u)
    (hpc : ∀ u a, F (State.setPc u a) = F u) (hstack : ∀ u l, F (State.setStack u l) = F u)
    (hmem : ∀ u m, F (State.setMem u m) = F u) (hfb : ∀ u f, F (State.setFb u f) = F u)
    (hdt : ∀ u b, F (State.setDt u b) = F u) (hst : ∀ u b, F (State.setSt u b) = F u)
    (hraise : ∀ u f, F (State.raise u f) = F u) (hpresent : ∀ u p, F (State.present u p) = F u) : F t = F s := by
  have rc : ∀ {j : Instr} {b c : Nat} {u : State}, s.rangeChecked j b c u = .next t → F u = F s → F t = F s := by
    intro j b c u e hu
    rcases State.rangeChecked_next e with ⟨-, -, rfl⟩ | rfl
    · exact hraise _ _
    · exact hu
  have skip : ∀ (u : State) (c : Bool), F (u.skipIf c) = F u := fun u c => by
    cases c
    · rfl
    · exact hpc _ _
  have load : ∀ b n, F (s.loadRegs b n) = F s := by
    intro b n
    induction n with
    | zero => rfl
    | succ n ih => rw [State.loadRegs_succ, hreg, ih]
  cases i
  case ret => simp only [exec, execRet] at h; split at h <;> cases h <;> simp [*]
  case call => simp only [exec, execCall] at h; split at h <;> cases h <;> simp [*, State.push]
  case skp => simp only [exec, execSkp] at h; split at h <;> cases h <;> simp [*]
  case sknp => simp only [exec, execSknp] at h; split at h <;> cases h <;> simp [*]
  case ldVxK => simp only [exec, execLdVxK] at h; split at h <;> cases h <;> simp [*]
  case drw => exact rc h (by simp [*])
  case ldB => exact rc h (by simp [*])
  case ldMemVx => exact rc h (by simp [*])
  case ldVxMem => exact rc h (by simp [*])
  all_goals (cases h; simp [State.setResultAndFlag, *])

/-- What every phase after execution keeps, the rest of the cycle keeps. -/
theorem State.finishCycle_preserves {α : Type} (F : State → α) (s : State) (hdisarm : ∀ u, F (State.disarmStep u) = F u)
    (hquit : ∀ u : State, F { u with quit := true } = F u) (hpause : ∀ u, F (State.pauseSignal u) = F u)
    (htoggle : ∀ u, F (State.toggleStepModeSignal u) = F u) (harm : ∀ u, F (State.advanceStepSignal u) = F u)
    (hreset : ∀ u, F (State.resetTransition u) = F u) (hraise : ∀ u, F (State.raise u .backendError) = F u)
    (hnext : ∀ u, F (State.nextInput u) = F u) : F s.finishCycle = F s :=
  State.finishCycle_induction (P := fun t => F t = F s) s rfl (fun t e => (hdisarm t).trans e)
    (fun t g e => State.applySignals_induction (P := fun t => F t = F s) t g e (fun t e => (hquit t).trans e)
      (fun t e => (hpause t).trans e) (fun t e => (htoggle t).trans e) (fun t e => (harm t).trans e)
      (fun t e => (hreset t).trans e))
    (fun t e => (hraise t).trans e) (fun t e => (hnext t).trans e)

end Sys2Proof.Machine
end

