-- ==== Sys2Proof/Laws/PerInstr.lean ====
section
/-!
SUPPORT. The family ClassNibble, one lemma per instruction: the top four bits of an instruction's word are the opcode class of
its row (30_encoding.md R71, R75).
-/

namespace Sys2Proof.Laws.ClassNibble

/-- The opcode class of the instruction's row of spec/opcode_table.json. -/
def classOf : Instr → Nibble
  | .sys _ => 0x0#4
  | .cls => 0x0#4
  | .ret => 0x0#4
  | .jp _ => 0x1#4
  | .call _ => 0x2#4
  | .seImm _ _ => 0x3#4
  | .sneImm _ _ => 0x4#4
  | .seReg _ _ => 0x5#4
  | .ldImm _ _ => 0x6#4
  | .addImm _ _ => 0x7#4
  | .ldReg _ _ => 0x8#4
  | .orReg _ _ => 0x8#4
  | .andReg _ _ => 0x8#4
  | .xorReg _ _ => 0x8#4
  | .addReg _ _ => 0x8#4
  | .sub _ _ => 0x8#4
  | .shr _ _ => 0x8#4
  | .subn _ _ => 0x8#4
  | .shl _ _ => 0x8#4
  | .sneReg _ _ => 0x9#4
  | .ldI _ => 0xA#4
  | .jpV0 _ => 0xB#4
  | .rnd _ _ => 0xC#4
  | .drw _ _ _ => 0xD#4
  | .skp _ => 0xE#4
  | .sknp _ => 0xE#4
  | .ldVxDt _ => 0xF#4
  | .ldVxK _ => 0xF#4
  | .ldDtVx _ => 0xF#4
  | .ldStVx _ => 0xF#4
  | .addI _ => 0xF#4
  | .ldF _ => 0xF#4
  | .ldB _ => 0xF#4
  | .ldMemVx _ => 0xF#4
  | .ldVxMem _ => 0xF#4

/-- The word's class field is the row's class. -/
def Statement (i : Instr) : Prop := fieldClass (encode i) = classOf i

theorem sys (nnn : Lit12) : Statement (.sys nnn) := by simp [Statement, encode, classOf]
theorem cls : Statement (.cls) := by simp [Statement, encode, classOf, fieldClass]
theorem ret : Statement (.ret) := by simp [Statement, encode, classOf, fieldClass]
theorem jp (nnn : Lit12) : Statement (.jp nnn) := by simp [Statement, encode, classOf]
theorem call (nnn : Lit12) : Statement (.call nnn) := by simp [Statement, encode, classOf]
theorem seImm (x : RegIx) (nn : Byte) : Statement (.seImm x nn) := by simp [Statement, encode, classOf]
theorem sneImm (x : RegIx) (nn : Byte) : Statement (.sneImm x nn) := by simp [Statement, encode, classOf]
theorem seReg (x y : RegIx) : Statement (.seReg x y) := by simp [Statement, encode, classOf]
theorem ldImm (x : RegIx) (nn : Byte) : Statement (.ldImm x nn) := by simp [Statement, encode, classOf]
theorem addImm (x : RegIx) (nn : Byte) : Statement (.addImm x nn) := by simp [Statement, encode, classOf]
theorem ldReg (x y : RegIx) : Statement (.ldReg x y) := by simp [Statement, encode, classOf]
theorem orReg (x y : RegIx) : Statement (.orReg x y) := by simp [Statement, encode, classOf]
theorem andReg (x y : RegIx) : Statement (.andReg x y) := by simp [Statement, encode, classOf]
theorem xorReg (x y : RegIx) : Statement (.xorReg x y) := by simp [Statement, encode, classOf]
theorem addReg (x y : RegIx) : Statement (.addReg x y) := by simp [Statement, encode, classOf]
theorem sub (x y : RegIx) : Statement (.sub x y) := by simp [Statement, encode, classOf]
theorem shr (x y : RegIx) : Statement (.shr x y) := by simp [Statement, encode, classOf]
theorem subn (x y : RegIx) : Statement (.subn x y) := by simp [Statement, encode, classOf]
theorem shl (x y : RegIx) : Statement (.shl x y) := by simp [Statement, encode, classOf]
theorem sneReg (x y : RegIx) : Statement (.sneReg x y) := by simp [Statement, encode, classOf]
theorem ldI (nnn : Lit12) : Statement (.ldI nnn) := by simp [Statement, encode, classOf]
theorem jpV0 (nnn : Lit12) : Statement (.jpV0 nnn) := by simp [Statement, encode, classOf]
theorem rnd (x : RegIx) (nn : Byte) : Statement (.rnd x nn) := by simp [Statement, encode, classOf]
theorem drw (x y : RegIx) (n : Nibble) : Statement (.drw x y n) := by simp [Statement, encode, classOf]
theorem skp (x : RegIx) : Statement (.skp x) := by simp [Statement, encode, classOf]
theorem sknp (x : RegIx) : Statement (.sknp x) := by simp [Statement, encode, classOf]
theorem ldVxDt (x : RegIx) : Statement (.ldVxDt x) := by simp [Statement, encode, classOf]
theorem ldVxK (x : RegIx) : Statement (.ldVxK x) := by simp [Statement, encode, classOf]
theorem ldDtVx (x : RegIx) : Statement (.ldDtVx x) := by simp [Statement, encode, classOf]
theorem ldStVx (x : RegIx) : Statement (.ldStVx x) := by simp [Statement, encode, classOf]
theorem addI (x : RegIx) : Statement (.addI x) := by simp [Statement, encode, classOf]
theorem ldF (x : RegIx) : Statement (.ldF x) := by simp [Statement, encode, classOf]
theorem ldB (x : RegIx) : Statement (.ldB x) := by simp [Statement, encode, classOf]
theorem ldMemVx (x : RegIx) : Statement (.ldMemVx x) := by simp [Statement, encode, classOf]
theorem ldVxMem (x : RegIx) : Statement (.ldVxMem x) := by simp [Statement, encode, classOf]

end Sys2Proof.Laws.ClassNibble
end

