-- ==== Sys2Proof/Tests/Slice0.lean ====
section
/-!
SUPPORT. Tests of the model's author, one step or one function call each. The expected results are those of 95_test_vectors.md
and of the examples in the instruction rules, or worked by hand from the rule named; words are written bit by bit from
30_encoding.md R71 and R75. After them, for each statement with hypotheses, a witness that meets them.
-/

namespace Sys2Proof.Tests

open Sys2Proof.Machine

/-! ## Well-formedness: the two class-0 words that are not SYS (30_encoding.md R76) -/

theorem test_wellformed_refuses_sys_cls : WellFormed (.sys 0x0E0#12) = false := by decide
theorem test_wellformed_refuses_sys_ret : WellFormed (.sys 0x0EE#12) = false := by decide
theorem test_wellformed_accepts_sys : WellFormed (.sys 0x0E1#12) = true := by decide

/-! ## Decoding, every constructor (30_encoding.md R71, R75) -/

theorem test_decode_class0 :
    decode 0b0000000100100011#16 = .ok (.sys 0x123#12) ∧ decode 0b0000000011100000#16 = .ok .cls ∧
    decode 0b0000000011101110#16 = .ok .ret ∧ decode 0b0000000011101111#16 = .ok (.sys 0x0EF#12) := by decide

theorem test_decode_control :
    decode 0b0001001000110100#16 = .ok (.jp 0x234#12) ∧ decode 0b0010001100000000#16 = .ok (.call 0x300#12) ∧
    decode 0b0011001101000010#16 = .ok (.seImm 3#4 0x42#8) ∧ decode 0b0100001101000010#16 = .ok (.sneImm 3#4 0x42#8) ∧
    decode 0b0101000100100000#16 = .ok (.seReg 1#4 2#4) ∧ decode 0b1001000100100000#16 = .ok (.sneReg 1#4 2#4) := by decide

theorem test_decode_arithmetic :
    decode 0b0110101010001001#16 = .ok (.ldImm 0xA#4 0x89#8) ∧ decode 0b0111000111111111#16 = .ok (.addImm 1#4 0xFF#8) ∧
    decode 0b1000000100100000#16 = .ok (.ldReg 1#4 2#4) ∧ decode 0b1000000100100001#16 = .ok (.orReg 1#4 2#4) ∧
    decode 0b1000000100100010#16 = .ok (.andReg 1#4 2#4) ∧ decode 0b1000000100100011#16 = .ok (.xorReg 1#4 2#4) ∧
    decode 0b1000000100100100#16 = .ok (.addReg 1#4 2#4) ∧ decode 0b1000000100100101#16 = .ok (.sub 1#4 2#4) ∧
    decode 0b1000000100100110#16 = .ok (.shr 1#4 2#4) ∧ decode 0b1000000100100111#16 = .ok (.subn 1#4 2#4) ∧
    decode 0b1000000100101110#16 = .ok (.shl 1#4 2#4) := by decide

theorem test_decode_random_index :
    decode 0b1010001100000000#16 = .ok (.ldI 0x300#12) ∧ decode 0b1011000100100011#16 = .ok (.jpV0 0x123#12) ∧
    decode 0b1100001100001111#16 = .ok (.rnd 3#4 0x0F#8) ∧ decode 0b1111001000011110#16 = .ok (.addI 2#4) := by decide

theorem test_decode_display : decode 0b1101000100100101#16 = .ok (.drw 1#4 2#4 5#4) := by decide

theorem test_decode_keypad_timers :
    decode 0b1110010110011110#16 = .ok (.skp 5#4) ∧ decode 0b1110010110100001#16 = .ok (.sknp 5#4) ∧
    decode 0b1111010000000111#16 = .ok (.ldVxDt 4#4) ∧ decode 0b1111001100001010#16 = .ok (.ldVxK 3#4) ∧
    decode 0b1111010000010101#16 = .ok (.ldDtVx 4#4) ∧ decode 0b1111010000011000#16 = .ok (.ldStVx 4#4) := by decide

theorem test_decode_memory :
    decode 0b1111000000101001#16 = .ok (.ldF 0#4) ∧ decode 0b1111101000110011#16 = .ok (.ldB 0xA#4) ∧
    decode 0b1111001001010101#16 = .ok (.ldMemVx 2#4) ∧ decode 0b1111001001100101#16 = .ok (.ldVxMem 2#4) := by decide

/-- 95_test_vectors.md 2.1: the invalid words listed there. -/
theorem test_decode_invalid :
    [0x5121, 0x512F, 0x9121, 0x8008, 0x800D, 0x800F, 0xE000, 0xE09F, 0xF000, 0xF090, 0xF0FF].all
      (fun n => decode (BitVec.ofNat 16 n) == .error (.invalidOpcode (BitVec.ofNat 16 n))) = true := by decide

/-- 20_memory.md R55: the byte at the lower address is bits 15-8; a lone byte is no instruction. -/
theorem test_decode_bytes :
    decodeBytes [0x12#8, 0x34#8, 0x00#8] = .ok (.jp 0x234#12, [0x00#8]) ∧ decodeBytes [0x12#8] = .error .truncated ∧
    decodeTableWord 16 0x1234 = some (.jp 0x234#12) := by decide

/-! ## One cycle -/

/-- The machine after reset with these registers. -/
def withRegs (l : List (RegIx × Byte)) : State := l.foldl (fun s p => s.setReg p.1 p.2) State.reset

/-- `I` set, and bytes stored from it up. -/
def withMem (s : State) (i : Addr) (l : List Byte) : State := (s.setI i).setMem (Memory.writeBytes s.mem i.toNat l)

/-- The answers of the environment in the first cycle. -/
def withInput (s : State) (f : CycleInput → CycleInput) : State := { s with inputs := [f CycleInput.quiet] }

/-- The state after a cycle that fetches this word. -/
def after (s : State) (w : Word) : Option State :=
  match step (s.withFetchWord 16 w.toNat) with
  | .next t => some t
  | .fault _ => none
  | .refused _ => none

/-- What is seen of the state after a cycle that fetches this word. -/
def see {α : Type} (s : State) (w : Word) (f : State → α) : Option α := (after s w).map f

/-! ### Control flow (95_test_vectors.md 2.3) -/

theorem test_sys : see State.reset 0x0123#16 (fun t => (t.pc, t.fault, t.v, t.presents)) =
    some (0x202#16, none, State.reset.v, []) := by decide
theorem test_ret : see (State.reset.setStack [0x202#16, 0x404#16]) 0x00EE#16 (fun t => (t.pc, t.stack)) =
    some (0x404#16, [0x202#16]) := by decide
theorem test_ret_underflow : see State.reset 0x00EE#16 (fun t => (t.fault, t.pc, t.stack)) =
    some (some (.stackUnderflow 0x00EE#16 0x200#16), 0x202#16, []) := by decide
theorem test_jp : see State.reset 0x1234#16 State.pc = some 0x234#16 := by decide
theorem test_call_at_15 : see (State.reset.setStack (List.replicate 15 0x300#16)) 0x2ABC#16
    (fun t => (t.pc, t.stack.length, t.stack.getLast?)) = some (0xABC#16, 16, some 0x202#16) := by decide
theorem test_call_overflow : see (State.reset.setStack (List.replicate 16 0x300#16)) 0x2ABC#16
    (fun t => (t.fault, t.pc, t.stack.length)) = some (some (.stackOverflow 0x2ABC#16 0x200#16), 0x202#16, 16) := by decide
theorem test_se_imm : see State.reset 0x3F00#16 State.pc = some 0x204#16 := by decide
theorem test_se_imm_skips_invalid_word :
    see (State.reset.setMem (Memory.writeBytes [] 0x202 [0xFF#8, 0xFF#8])) 0x3000#16 (fun t => (t.pc, t.fault)) =
      some (0x204#16, none) := by decide
theorem test_sne_imm_equal : see State.reset 0x4000#16 State.pc = some 0x202#16 := by decide
theorem test_sne_imm : see (withRegs [(0#4, 1#8)]) 0x4000#16 State.pc = some 0x204#16 := by decide
theorem test_se_reg : see (withRegs [(1#4, 7#8), (2#4, 8#8)]) 0x5120#16 State.pc = some 0x202#16 := by decide
theorem test_se_reg_same : see State.reset 0x5110#16 State.pc = some 0x204#16 := by decide
theorem test_sne_reg : see (withRegs [(1#4, 7#8), (2#4, 8#8)]) 0x9120#16 State.pc = some 0x204#16 := by decide
theorem test_sne_reg_same : see State.reset 0x9110#16 State.pc = some 0x202#16 := by decide

/-! ### Arithmetic (95_test_vectors.md W1, W2, 2.4) -/

theorem test_ld_imm : see State.reset 0x6FFF#16 (fun t => t.reg vf) = some 0xFF#8 := by decide
theorem test_add_imm_no_carry : see (withRegs [(1#4, 0xFF#8), (vf, 0x5A#8)]) 0x7101#16 (fun t => (t.reg 1#4, t.reg vf)) =
    some (0#8, 0x5A#8) := by decide
theorem test_add_imm_vf : see (withRegs [(vf, 0x10#8)]) 0x7F01#16 (fun t => t.reg vf) = some 0x11#8 := by decide
theorem test_ld_reg : see (withRegs [(2#4, 0x33#8)]) 0x8120#16 (fun t => (t.reg 1#4, t.reg 2#4)) = some (0x33#8, 0x33#8) := by decide
theorem test_or : see (withRegs [(1#4, 0x0F#8), (2#4, 0xF0#8), (vf, 0x5A#8)]) 0x8121#16 (fun t => (t.reg 1#4, t.reg vf)) =
    some (0xFF#8, 0x5A#8) := by decide
theorem test_and : see (withRegs [(1#4, 0x3C#8), (2#4, 0x0F#8)]) 0x8122#16 (fun t => t.reg 1#4) = some 0x0C#8 := by decide
theorem test_xor : see (withRegs [(1#4, 0x3C#8), (2#4, 0x0F#8)]) 0x8123#16 (fun t => t.reg 1#4) = some 0x33#8 := by decide
theorem test_xor_same : see (withRegs [(1#4, 0x3C#8)]) 0x8113#16 (fun t => t.reg 1#4) = some 0#8 := by decide
theorem test_add_reg_into_vf : see (withRegs [(vf, 0xFF#8), (1#4, 1#8)]) 0x8F14#16 (fun t => t.reg vf) = some 1#8 := by decide
theorem test_add_reg_from_vf : see (withRegs [(1#4, 0x10#8), (vf, 5#8)]) 0x81F4#16 (fun t => (t.reg 1#4, t.reg vf)) =
    some (0x15#8, 0#8) := by decide
theorem test_sub_borrow : see (withRegs [(1#4, 10#8), (2#4, 15#8)]) 0x8125#16 (fun t => (t.reg 1#4, t.reg vf)) =
    some (251#8, 0#8) := by decide
theorem test_sub_equal : see (withRegs [(1#4, 0x42#8), (2#4, 0x42#8)]) 0x8125#16 (fun t => (t.reg 1#4, t.reg vf)) =
    some (0#8, 1#8) := by decide
theorem test_shr_ignores_vy : see (withRegs [(1#4, 0x80#8), (2#4, 3#8)]) 0x8126#16 (fun t => (t.reg 1#4, t.reg vf)) =
    some (0x40#8, 0#8) := by decide
theorem test_shr_vf : see (withRegs [(vf, 3#8)]) 0x8F06#16 (fun t => t.reg vf) = some 1#8 := by decide
theorem test_subn : see (withRegs [(1#4, 1#8), (2#4, 0#8)]) 0x8127#16 (fun t => (t.reg 1#4, t.reg vf)) =
    some (0xFF#8, 0#8) := by decide
theorem test_subn_vf : see (withRegs [(vf, 3#8), (1#4, 5#8)]) 0x8F17#16 (fun t => t.reg vf) = some 1#8 := by decide
theorem test_shl_ignores_vy : see (withRegs [(1#4, 0x40#8), (2#4, 0xFF#8)]) 0x812E#16 (fun t => (t.reg 1#4, t.reg vf)) =
    some (0x80#8, 0#8) := by decide
theorem test_shl_vf : see (withRegs [(vf, 0x81#8)]) 0x8F0E#16 (fun t => t.reg vf) = some 1#8 := by decide

/-! ### Random, index, offset jump (95_test_vectors.md 2.5) -/

theorem test_rnd : see (withInput State.reset fun c => { c with random := 0x3C#8 }) 0xCFF0#16 (fun t => t.reg vf) =
    some 0x30#8 := by decide
theorem test_ld_i : see State.reset 0xAFFF#16 State.i = some 0xFFF#16 := by decide
theorem test_jp_v0 : see (withRegs [(0#4, 0xFF#8)]) 0xBFFF#16 State.pc = some 0x10FE#16 := by decide
theorem test_add_i_past_memory : see ((withRegs [(1#4, 1#8), (vf, 0x77#8)]).setI 0xFFF#16) 0xF11E#16
    (fun t => (t.i, t.reg vf)) = some (0x1000#16, 0x77#8) := by decide
theorem test_add_i_wraps : see ((withRegs [(1#4, 2#8)]).setI 0xFFFF#16) 0xF11E#16 State.i = some 1#16 := by decide

/-! ### Display (95_test_vectors.md 2.6; a row of the framebuffer is written with column 0 as bit 0) -/

theorem test_cls : see (State.reset.setFb (Vector.replicate 32 5#64)) 0x00E0#16 (fun t => (t.fb, t.presents)) =
    some (Framebuffer.clear, [Framebuffer.clear]) := by decide
/-- `FB[3,0]=1` and the byte 18 at (0,0): cell 3 is cleared, cell 4 set, and that is a collision. -/
theorem test_drw_collision :
    see (withMem (State.reset.setFb (Framebuffer.toggle Framebuffer.clear 3 0)) 0x300#16 [0x18#8]) 0xD011#16
      (fun t => (Framebuffer.row t.fb 0, t.reg vf, t.presents.length)) = some (16#64, 1#8, 1) := by decide
/-- Glyph 0 at the wrapped and clipped corner of program P5: cells 60 to 63 of row 30, 60 and 63 of row 31. -/
theorem test_drw_clips :
    see ((withRegs [(0#4, 0x7C#8), (1#4, 0x3E#8)]).setI 0x050#16) 0xD015#16
      (fun t => (Framebuffer.row t.fb 30, Framebuffer.row t.fb 31, Framebuffer.row t.fb 0, t.reg vf)) =
        some (0xF000000000000000#64, 0x9000000000000000#64, 0#64, 0#8) := by decide

/-! ### Keypad and timers (95_test_vectors.md 2.2, 2.7) -/

theorem test_skp_down : see (withInput (withRegs [(0#4, 3#8)]) fun c => { c with keysDown := 0x0008#16 }) 0xE09E#16 State.pc =
    some 0x204#16 := by decide
theorem test_skp_invalid : see (withRegs [(0#4, 0x10#8)]) 0xE09E#16 (fun t => (t.fault, t.pc)) =
    some (some (.invalidRegister 0xE09E#16 0x200#16 0x10#8), 0x202#16) := by decide
theorem test_sknp_up : see (withRegs [(0#4, 3#8)]) 0xE0A1#16 State.pc = some 0x204#16 := by decide
theorem test_sknp_invalid : see (withRegs [(0#4, 0xFF#8)]) 0xE0A1#16 State.fault =
    some (some (.invalidRegister 0xE0A1#16 0x200#16 0xFF#8)) := by decide
theorem test_wait_for_key_none : see State.reset 0xF30A#16 (fun t => (t.pc, t.reg 3#4)) = some (0x200#16, 0#8) := by decide
theorem test_wait_for_key : see (withInput (withRegs [(vf, 0x44#8)]) fun c => { c with pendingKey := some 9#4 }) 0xFF0A#16
    (fun t => (t.reg vf, t.pc)) = some (9#8, 0x202#16) := by decide
theorem test_read_timer_after_tick : see (withInput (State.reset.setDt 5#8) fun c => { c with tick := true }) 0xF007#16
    (fun t => (t.dt, t.reg 0#4)) = some (4#8, 4#8) := by decide
theorem test_set_timer_after_tick :
    see (withInput ((withRegs [(0#4, 9#8)]).setDt 5#8) fun c => { c with tick := true }) 0xF015#16 State.dt = some 9#8 := by decide
theorem test_set_sound : see (withRegs [(4#4, 5#8)]) 0xF418#16 State.st = some 5#8 := by decide
theorem test_tick_floor : see (withInput (State.reset.setSt 1#8) fun c => { c with tick := true }) 0x0000#16
    (fun t => (t.dt, t.st)) = some (0#8, 0#8) := by decide

/-! ### Memory transfer (95_test_vectors.md W3, W4, 2.8) -/

theorem test_bcd : see ((withRegs [(0#4, 137#8)]).setI 0xFFD#16) 0xF033#16
    (fun t => (t.mem.read 0xFFD, t.mem.read 0xFFE, t.mem.read 0xFFF, t.i)) = some (1#8, 3#8, 7#8, 0xFFD#16) := by decide
theorem test_bcd_out_of_range : see ((withRegs [(0#4, 137#8)]).setI 0xFFE#16) 0xF033#16
    (fun t => (t.fault, t.mem.read 0xFFE, t.mem.read 0xFFF)) =
      some (some (.memoryOutOfBounds 0xF033#16 0x200#16 0x1000), 0#8, 0#8) := by decide
theorem test_store : see ((withRegs [(0#4, 1#8), (1#4, 2#8), (2#4, 3#8), (3#4, 9#8)]).setI 0x300#16) 0xF255#16
    (fun t => (t.mem.read 0x300, t.mem.read 0x301, t.mem.read 0x302, t.mem.read 0x303, t.i)) =
      some (1#8, 2#8, 3#8, 0#8, 0x300#16) := by decide
theorem test_store_into_font : see (State.reset.setI 0x050#16) 0xF055#16 (fun t => t.mem.read 0x050) = some 0#8 := by decide
theorem test_load : see (withMem State.reset 0x300#16 [1#8, 3#8, 7#8, 8#8]) 0xF265#16
    (fun t => (t.reg 0#4, t.reg 1#4, t.reg 2#4, t.reg 3#4, t.i)) = some (1#8, 3#8, 7#8, 0#8, 0x300#16) := by decide
theorem test_load_out_of_range : see (State.reset.setI 0xFF1#16) 0xFF65#16 (fun t => (t.fault, t.v)) =
    some (some (.memoryOutOfBounds 0xFF65#16 0x200#16 0x1000), State.reset.v) := by decide
theorem test_glyph : see (withRegs [(0#4, 0x1A#8)]) 0xF029#16 State.i = some 0x082#16 := by decide

/-! ### The fetch and the run loop (95_test_vectors.md 2.2, 2.9, W10) -/

/-- Signals delivered in the first cycle. -/
def poll (p m r e q : Bool) (c : CycleInput) : CycleInput :=
  { c with poll := .signals { pause := p, toggleStepMode := m, advanceStep := r, reset := e, quit := q } }

/-- The machine after reset, launched with the debug flag. -/
def debugging : State := { State.reset with debugEnabled := true }

theorem test_fetch_odd : see (State.reset.setPc 0xFFD#16) 0x6011#16 (fun t => (t.reg 0#4, t.pc)) = some (0x11#8, 0xFFF#16) := by decide
theorem test_fetch_limit : see (State.reset.setPc 0xFFE#16) 0x6011#16 (fun t => (t.fault, t.pc)) =
    some (some (.programCounterOutOfBounds 0xFFE#16), 0xFFE#16) := by decide
theorem test_font_is_no_instruction : (after (State.reset.setPc 0x050#16) 0xF090#16).map State.fault =
    some (some (.invalidOpcode 0xF090#16 0x050#16)) := by decide
theorem test_fault_has_no_next_step : step (State.reset.raise (.invalidOpcode 0xF090#16 0x050#16)) =
    .fault (.stopped (.invalidOpcode 0xF090#16 0x050#16)) := by rfl
theorem test_pause : see (withInput debugging (poll true false false false false)) 0x0000#16
    (fun t => (t.paused, t.presents.length)) = some (true, 1) := by decide
theorem test_pause_without_debug : see (withInput State.reset (poll true true false false false)) 0x0000#16
    (fun t => (t.paused, t.stepMode, t.presents.length)) = some (false, false, 0) := by decide
theorem test_paused_holds : see (withInput ({ debugging with paused := true }.setDt 5#8) fun c => { c with tick := true }) 0x6001#16
    (fun t => (t.pc, t.dt, t.reg 0#4)) = some (0x200#16, 5#8, 0#8) := by decide
theorem test_armed_step : see { debugging with stepMode := true, stepArmed := true } 0x6001#16
    (fun t => (t.reg 0#4, t.stepArmed, t.presents.length)) = some (1#8, false, 1) := by decide
/-- 60_exceptions.md R219: the present comes before the disarm, so its failure leaves the step armed. -/
theorem test_disarm_draw_fails :
    see (withInput { debugging with stepMode := true, stepArmed := true } fun c => { c with failing := [.stepDisarm] }) 0x6001#16
      (fun t => (t.reg 0#4, t.stepArmed, t.presents.length, t.fault)) = some (1#8, true, 1, some .backendError) := by decide
/-- 95_test_vectors.md 2.9: a paused machine still polls, and a cycle that faults does not. -/
theorem test_paused_machine_polls :
    see (withInput { debugging with paused := true } (poll true false false false false)) 0x6001#16
      (fun t => (t.paused, t.reg 0#4, t.presents.length)) = some (false, 0#8, 1) := by decide
theorem test_fault_preempts_quit : see (withInput State.reset (poll false false false false true)) 0x00EE#16
    (fun t => (t.quit, t.fault.isSome)) = some (false, true) := by decide
theorem test_quit_before_reset : see (withInput (withRegs [(0#4, 5#8)]) (poll false false false true true)) 0x0000#16
    (fun t => (t.quit, t.reg 0#4)) = some (true, 5#8) := by decide
theorem test_reset_while_paused :
    see (withInput ({ debugging with paused := true }.setReg 0#4 5#8) (poll false false false true false)) 0x0000#16
      (fun t => (t.reg 0#4, t.pc, t.paused, t.presents.length)) = some (0#8, 0x200#16, true, 1) := by decide
theorem test_rom_too_large :
    construct { rom := .bytes (List.replicate 3585 0#8), debugEnabled := false, backendReady := true, inputs := [] } =
      .fault (.stopped (.romTooLarge 3585)) := by
  simp only [construct, Config.maxRomLen, List.length_replicate]; rfl

/-! ## Witnesses: states and operands that meet the hypotheses of the statements, at the boundaries of their clauses -/

/-- A state that executes: `PC` already past the instruction at 0x200. -/
def running : State := State.reset.setPc 0x202#16

theorem witness_DecodeOfEncode : WellFormed (.sys 0xFFF#12) = true ∧ WellFormed (.drw 0xF#4 0xF#4 0xF#4) = true := by decide
theorem witness_EncodeOfDecode : decode 0x8FFE#16 = .ok (.shl 0xF#4 0xF#4) := by decide
theorem witness_ClassZeroDecodes :
    (0x0FFF#16).toNat ≤ 0x0FFF ∧ 0x0FFF#16 ≠ 0x00E0#16 ∧ 0x0FFF#16 ≠ 0x00EE#16 := by decide
theorem witness_TableWordIsFetched :
    (State.reset.setPc 0xFFD#16).mem.wf = true ∧ (State.reset.setPc 0xFFD#16).pc.toNat < 0xFFE := by decide
theorem witness_SysWritesNothing : 0x0E1#12 ≠ 0x0E0#12 ∧ 0x0E1#12 ≠ 0x0EE#12 := by decide
theorem witness_RetPops : (running.setStack [0x204#16]).stack = [] ++ [0x204#16] := rfl
theorem witness_RetUnderflows : running.pc = 0x200#16 + 2#16 ∧ running.stack = [] := by decide
theorem witness_CallPushes : (running.setStack (List.replicate 15 0x204#16)).stack.length < 16 := by decide
theorem witness_CallOverflows : running.pc = 0x200#16 + 2#16 ∧
    (running.setStack (List.replicate 16 0x204#16)).stack.length = 16 := by decide
theorem witness_ReturnComesBack : ∃ t u : State, running.stack.length < 16 ∧ exec (.call 0x300#12) running = .next t ∧
    u.stack = t.stack ∧ u.reg 0#4 ≠ t.reg 0#4 :=
  ⟨_, withRegs [(0#4, 1#8)] |>.setStack [0x202#16], by decide, rfl, rfl, by decide⟩
theorem witness_result_register_is_not_vf : (1#4 : RegIx) ≠ vf := by decide
theorem witness_ClsClearsAndPresents : DrawSucceeds State.reset .instruction := by simp [DrawSucceeds, State.input, State.reset, CycleInput.quiet]
/-- The last drawn row is the last byte of memory; one row more and the first clause gives way to the second. -/
theorem witness_DrwXorsCollidesClips_draws :
    (State.reset.setI 0xFFF#16).i.toNat + 1 ≤ 4096 ∧ 1 = min (1#4).toNat (32 - 0) ∧
    ((State.reset.setI 0xFFF#16).reg 0#4).toNat % 64 = 0 ∧ DrawSucceeds (State.reset.setI 0xFFF#16) .instruction :=
  ⟨by decide, by decide, by decide, witness_ClsClearsAndPresents⟩
theorem witness_DrwXorsCollidesClips_faults :
    (running.setI 0xFFF#16).pc = 0x200#16 + 2#16 ∧ 2 = min (2#4).toNat (32 - 0) ∧ 4096 < (running.setI 0xFFF#16).i.toNat + 2 := by
  decide
theorem witness_SkipsOnKey : ((withRegs [(0#4, 0xF#8)]).reg 0#4).toNat ≤ 0xF ∧
    0xF < ((withRegs [(0#4, 0x10#8)]).reg 0#4).toNat ∧ ((withRegs [(0#4, 0x10#8)]).setPc 2#16).pc = 0#16 + 2#16 := by decide
theorem witness_WaitForKey_none : running.pc = 0x200#16 + 2#16 ∧ running.input.pendingKey = none := by decide
theorem witness_WaitForKey_some :
    (withInput running fun c => { c with pendingKey := some 0xF#4 }).input.pendingKey = some 0xF#4 := by decide
theorem witness_BcdStoresDigits : (running.setI 0xFFD#16).mem.wf = true ∧ (running.setI 0xFFD#16).i.toNat + 2 < 4096 ∧
    running.pc = 0x200#16 + 2#16 ∧ 4096 ≤ (running.setI 0xFFE#16).i.toNat + 2 := by decide
theorem witness_StoreRegisters : (running.setI 0xFF0#16).mem.wf = true ∧ (running.setI 0xFF0#16).i.toNat + (0xF#4).toNat < 4096 ∧
    running.pc = 0x200#16 + 2#16 ∧ 4096 ≤ (running.setI 0xFF1#16).i.toNat + (0xF#4).toNat := by decide
theorem witness_LoadRegisters : (running.setI 0xFFF#16).i.toNat + (0#4).toNat < 4096 ∧ running.pc = 0x200#16 + 2#16 ∧
    4096 ≤ (running.setI 0x1000#16).i.toNat + (0#4).toNat := by decide
theorem witness_LoadAfterStoreRestores : ∃ t u : State, State.reset.mem.wf = true ∧ State.reset.i.toNat + (3#4).toNat < 4096 ∧
    exec (.ldMemVx 3#4) State.reset = .next t ∧ u.mem = t.mem ∧ u.i = t.i ∧ u.reg 0#4 ≠ t.reg 0#4 :=
  ⟨_, withRegs [(0#4, 1#8)], by decide, by decide, rfl, rfl, rfl, by decide⟩

/-- The machine after reset fetches. -/
theorem fetches_reset : Fetches State.reset := ⟨⟨rfl, rfl⟩, rfl, by decide⟩
/-- It fetches in its font too, whose first word is invalid. -/
theorem fetches_font : Fetches (State.reset.setPc 0x050#16) := ⟨⟨rfl, rfl⟩, rfl, by decide⟩

theorem witness_StepRunsDecodedInstruction : Fetches State.reset ∧
    decode (State.reset.mem.read State.reset.pc.toNat ++ State.reset.mem.read (State.reset.pc.toNat + 1)) = .ok (.sys 0#12) :=
  ⟨fetches_reset, by decide⟩
theorem witness_FetchReadsOrFaults : (State.reset.setPc 0xFFD#16).pc.toNat < 0xFFE ∧
    0xFFE ≤ (State.reset.setPc 0xFFE#16).pc.toNat ∧ Running (State.reset.setPc 0xFFE#16) ∧
    (State.reset.setPc 0xFFE#16).gateOpen = true := ⟨by decide, by decide, ⟨rfl, rfl⟩, by decide⟩
theorem witness_InvalidOpcodeEndsTheCycle : Fetches (State.reset.setPc 0x050#16) ∧
    0xF090#16 = (State.reset.setPc 0x050#16).mem.read 0x050 ++ (State.reset.setPc 0x050#16).mem.read 0x051 ∧
    decode 0xF090#16 = .error (.invalidOpcode 0xF090#16) := ⟨fetches_font, by decide, by decide⟩
theorem witness_StoppedMachineStaysStopped : { State.reset with quit := true }.quit = true ∧
    (State.reset.raise .backendError).quit = false ∧ (State.reset.raise .backendError).fault = some .backendError ∧
    Running State.reset := ⟨rfl, rfl, rfl, rfl, rfl⟩
/-- With the tick drawn and timers that are not 0: the word F015 for the clause of ST, F018 for that of DT. -/
theorem witness_TimersOverAStep :
    (∃ t : State, step (withInput ((State.reset.setSt 5#8).withFetchWord 16 0xF015) fun c => { c with tick := true }) = .next t) ∧
    decode (withInput ((State.reset.setSt 5#8).withFetchWord 16 0xF015) fun c => { c with tick := true }).nextWord = .ok (.ldDtVx 0#4) ∧
    (∃ t : State, step (withInput ((State.reset.setDt 5#8).withFetchWord 16 0xF018) fun c => { c with tick := true }) = .next t) ∧
    decode (withInput ((State.reset.setDt 5#8).withFetchWord 16 0xF018) fun c => { c with tick := true }).nextWord = .ok (.ldStVx 0#4) ∧
    (withInput (State.reset.setDt 5#8) fun c => { c with tick := true }).input.poll =
      .signals { pause := false, toggleStepMode := false, advanceStep := false, reset := false, quit := false } :=
  ⟨⟨_, rfl⟩, by decide, ⟨_, rfl⟩, by decide, by decide⟩
theorem witness_ClosedGateHoldsTheMachine : Running { debugging with paused := true } ∧ Running { debugging with stepMode := true } ∧
    { debugging with stepMode := true }.stepArmed = false ∧ { debugging with paused := true }.input.poll = CycleInput.quiet.poll :=
  ⟨⟨rfl, rfl⟩, ⟨rfl, rfl⟩, rfl, rfl⟩
/-- The machine with the debug flag, these sites failing and this poll. -/
def polled (failing : List PresentSite) (p m r e q : Bool) : State :=
  withInput debugging fun c => { poll p m r e q c with failing := failing }

/-- Every signal but QUIT with a draw that fails at no place that presents; QUIT, and no signal at all, with every draw failing. -/
theorem witness_DisarmThenSignalsInOrder :
    let all := [PresentSite.instruction, .stepDisarm, .pause, .toggleStepMode, .reset]
    let some := [PresentSite.instruction, .stepDisarm]
    (polled some true true true true false).fault = none ∧ (polled some true true true true false).stepMode = false ∧
    (polled some true true true true false).input.poll =
      .signals { pause := true, toggleStepMode := true, advanceStep := true, reset := true, quit := false } ∧
    (∀ site ∈ [PresentSite.pause, .toggleStepMode, .reset], site ∉ (polled some true true true true false).input.failing) ∧
    (polled all true true true true true).fault = none ∧ (polled all true true true true true).stepMode = false ∧
    (polled all true true true true true).input.poll =
      .signals { pause := true, toggleStepMode := true, advanceStep := true, reset := true, quit := true } ∧
    (polled all false false false false false).input.poll =
      .signals { pause := false, toggleStepMode := false, advanceStep := false, reset := false, quit := false } := by decide
theorem witness_ResetTransitionClearsAllButMemory : DrawSucceeds (withRegs [(0#4, 5#8)]) .reset := by
  intro h; exact absurd h (by decide)
/-- The longest ROM that is accepted, with a backend that failed and one that is ready, and the shortest that is not. -/
theorem witness_ConstructionOrLoadError :
    let l : Launch := { rom := .bytes (List.replicate 3584 0x12#8), debugEnabled := true, backendReady := false, inputs := [] }
    l.rom = .bytes (List.replicate 3584 0x12#8) ∧ (List.replicate 3584 0x12#8).length ≤ 3584 ∧ l.backendReady = false ∧
      { l with backendReady := true }.backendReady = true ∧ 3584 < (List.replicate 3585 0x12#8).length := by
  simp only [List.length_replicate]; decide
/-- A state in step mode with a step armed, every signal but QUIT polled, and this draw failing. -/
def failingAt (site : PresentSite) : State :=
  withInput { debugging with stepMode := true, stepArmed := true } fun c => { poll true true true true false c with failing := [site] }

/-- CLS, and a DRW of 15 rows that the bottom edge clips to the one row in the last byte of memory. -/
theorem witness_BackendFailureEndsTheRun_instruction :
    .instruction ∈ (((failingAt .instruction).setReg 1#4 31#8).setI 0xFFF#16).input.failing ∧
    ((((failingAt .instruction).setReg 1#4 31#8).setI 0xFFF#16).reg 1#4).toNat % 32 = 31 ∧ 1 = min (0xF#4).toNat (32 - 31) ∧
    (((failingAt .instruction).setReg 1#4 31#8).setI 0xFFF#16).i.toNat + 1 ≤ 4096 := by decide
theorem witness_BackendFailureEndsTheRun_faulted : (State.reset.raise .backendError).fault = some .backendError := rfl
theorem witness_BackendFailureEndsTheRun_disarm : (failingAt .stepDisarm).fault = none ∧ (failingAt .stepDisarm).stepMode = true ∧
    (failingAt .stepDisarm).stepArmed = true ∧ .stepDisarm ∈ (failingAt .stepDisarm).input.failing := by decide
theorem witness_BackendFailureEndsTheRun_poll : (withInput State.reset fun c => { c with poll := .failed }).fault = none ∧
    (withInput State.reset fun c => { c with poll := .failed }).stepMode = false ∧
    (withInput State.reset fun c => { c with poll := .failed }).input.poll = .failed := by decide
/-- The three signals, each failing after a disarm, and after the signals before it, whose draws succeed. -/
theorem witness_BackendFailureEndsTheRun_signals : ∀ site ∈ [PresentSite.pause, .toggleStepMode, .reset],
    (failingAt site).fault = none ∧ .stepDisarm ∉ (failingAt site).input.failing ∧ (failingAt site).debugEnabled = true ∧
    (failingAt site).input.poll =
      .signals { pause := true, toggleStepMode := true, advanceStep := true, reset := true, quit := false } ∧
    site ∈ (failingAt site).input.failing ∧ (site ≠ .pause → .pause ∉ (failingAt site).input.failing) ∧
    (site = .reset → .toggleStepMode ∉ (failingAt site).input.failing) := by decide
theorem witness_ArmedStepRunsOnce : ∃ t : State, { debugging with stepMode := true, stepArmed := true }.stepMode = true ∧
    { debugging with stepMode := true, stepArmed := true }.stepArmed = true ∧
    { debugging with stepMode := true, stepArmed := true }.input.poll = CycleInput.quiet.poll ∧
    step { debugging with stepMode := true, stepArmed := true } = .next t ∧ t.fault = none ∧
    { debugging with stepMode := true, stepArmed := true }.paused = false := ⟨_, rfl, rfl, rfl, rfl, rfl, rfl⟩
theorem witness_ArmedStepRunsOnce_paused : ∃ t : State,
    step { debugging with stepMode := true, stepArmed := true, paused := true } = .next t ∧ t.fault = none := ⟨_, rfl, rfl⟩
/-- The machine after reset with F30A at 0x200, and QUIT polled while it waits. -/
theorem witness_WaitForKeyReplays :
    Fetches (withInput (State.reset.withFetchWord 16 0xF30A) (poll false false false false true)) ∧
    decode (withInput (State.reset.withFetchWord 16 0xF30A) (poll false false false false true)).nextWord = .ok (.ldVxK 3#4) ∧
    (withInput (State.reset.withFetchWord 16 0xF30A) (poll false false false false true)).input.pendingKey = none ∧
    (withInput (State.reset.withFetchWord 16 0xF30A) (poll false false false false true)).input.poll =
      .signals { pause := false, toggleStepMode := false, advanceStep := false, reset := false, quit := true } :=
  ⟨⟨⟨rfl, rfl⟩, rfl, by decide⟩, by decide, by decide, by decide⟩
theorem witness_MemoryReadsLastWrite : Memory.wf [(0x300, 1#8)] = true ∧ 4095 < 4096 ∧ 4096 ≤ 4096 ∧ 4094 ≠ 4095 := by decide
theorem witness_CanonicalMemoriesAreEqual : Memory.wf [(0x300, 1#8)] = true ∧
    (Memory.write (Memory.write [] 0x300 7#8) 0x300 1#8).wf = true ∧
    ∀ a, a < 4096 → Memory.read [(0x300, 1#8)] a = (Memory.write (Memory.write [] 0x300 7#8) 0x300 1#8).read a :=
  ⟨by decide, by decide, fun _ _ => rfl⟩
theorem witness_FetchSeesStoredBytes : ∃ t u : State, State.reset.mem.wf = true ∧ 1 ≤ (1#4).toNat ∧
    ((withRegs [(0#4, 0x12#8)]).setI 0xFFC#16).i.toNat + (1#4).toNat < 4096 ∧
    exec (.ldMemVx 1#4) ((withRegs [(0#4, 0x12#8)]).setI 0xFFC#16) = .next t ∧ u.mem = t.mem ∧ u.pc = 0xFFC#16 :=
  ⟨_, ((withRegs [(0#4, 0x12#8)]).setMem (Memory.writeBytes [] 0xFFC [0x12#8, 0#8])).setPc 0xFFC#16,
    by decide, by decide, by decide, rfl, rfl, rfl⟩
theorem witness_FaultsArePrecise : ∃ t : State, running.fault = none ∧ exec .ret running = .next t ∧
    t.fault = some (.stackUnderflow 0x00EE#16 0x200#16) ∧ FaultRecord.stackUnderflow 0x00EE#16 0x200#16 ≠ .backendError :=
  ⟨_, rfl, rfl, rfl, by decide⟩
theorem witness_FaultsByInstruction : ∃ t : State, running.pc = 0x200#16 + 2#16 ∧ running.fault = none ∧
    exec (.ldB 0#4) (running.setI 0xFFE#16) = .next t ∧ t.fault = some (.memoryOutOfBounds 0xF033#16 0x200#16 4096) :=
  ⟨_, rfl, rfl, rfl, rfl⟩
theorem witness_ReportNamesTheOffender : ∃ t : State, step (State.reset.withFetchWord 16 0x00EE) = .next t ∧
    t.fault = some (.stackUnderflow 0x00EE#16 0x200#16) := ⟨_, rfl, rfl⟩
theorem witness_WhoWritesVF : ∃ t : State, exec (.addReg 1#4 2#4) (withRegs [(1#4, 0x80#8), (2#4, 0x80#8)]) = .next t ∧
    t.reg vf ≠ (withRegs [(1#4, 0x80#8), (2#4, 0x80#8)]).reg vf := ⟨_, rfl, by decide⟩
/-- The premise of each clause: the stack, the framebuffer, a byte of memory, a timer and `I` change. -/
theorem witness_WhoWritesWhat :
    (∃ t : State, exec (.call 0x300#12) running = .next t ∧ t.stack ≠ running.stack) ∧
    (∃ t : State, exec .cls (running.setFb (Vector.replicate 32 1#64)) = .next t ∧ t.fb ≠ Vector.replicate 32 1#64) ∧
    (∃ t : State, exec (.ldB 0#4) ((withRegs [(0#4, 255#8)]).setI 0x300#16) = .next t ∧ t.mem.read 0x300 ≠ State.reset.mem.read 0x300) ∧
    (∃ t : State, exec (.ldDtVx 0#4) (withRegs [(0#4, 1#8)]) = .next t ∧ t.dt ≠ State.reset.dt) ∧
    (∃ t : State, exec (.ldStVx 0#4) (withRegs [(0#4, 1#8)]) = .next t ∧ t.st ≠ State.reset.st) ∧
    (∃ t : State, exec (.ldF 0#4) running = .next t ∧ t.i ≠ running.i) :=
  ⟨⟨_, rfl, by decide⟩, ⟨_, rfl, by decide⟩, ⟨_, rfl, by decide⟩, ⟨_, rfl, by decide⟩, ⟨_, rfl, by decide⟩, ⟨_, rfl, by decide⟩⟩
/-- The premise of NoInstructionWritesRunState and NoInstructionReadsRunState. -/
theorem witness_NoInstructionTouchesRunState : ∃ t : State, exec (.drw 0#4 1#4 5#4) { debugging with paused := true } = .next t := ⟨_, rfl⟩
theorem witness_DrawsReachNoOtherInstruction : ∃ t : State, exec (.ldVxMem 3#4) running = .next t := ⟨_, rfl⟩
/-- The invariant holds with a full stack, the lowest and the highest return address on it. -/
theorem witness_StepKeepsInv : ∃ t : State, Inv (debugging.setStack (0x0002#16 :: List.replicate 15 0x0FFF#16)) ∧
    step (debugging.setStack (0x0002#16 :: List.replicate 15 0x0FFF#16)) = .next t :=
  ⟨_, ⟨by decide, by decide, by simp [ReturnAddress], by decide⟩, rfl⟩
theorem witness_InvAtStart : ∃ t,
    construct { rom := .bytes [0x12#8, 0x00#8], debugEnabled := true, backendReady := true, inputs := [] } = .next t := ⟨_, rfl⟩
theorem witness_GateOpenWithoutDebug : Inv (running.setStack [0x0FFF#16]) ∧ (running.setStack [0x0FFF#16]).debugEnabled = false :=
  ⟨⟨by decide, by decide, by simp [ReturnAddress], by decide⟩, by decide⟩

end Sys2Proof.Tests
end

section
/-!
SUPPORT. The frame of every instruction, said once: `mayWrite` names the parts an instruction may change and `exec_frame` proves it.
The only-by rules of 10_state.md are read off that table.
-/

namespace Sys2Proof.Machine

/-! ## Frames -/

/-- `OnlyChanges` with memory compared as data too, so that a frame carries facts about its form. -/
structure Frame (ps : List Part) (s t : State) : Prop extends OnlyChanges ps s t where
  memData : Part.mem ∉ ps → t.mem = s.mem

theorem OnlyChanges.mono {ps qs : List Part} {s t : State} (h : OnlyChanges ps s t) (hs : ps ⊆ qs) : OnlyChanges qs s t where
  reg x hx := h.reg x (mt (@hs _) hx)
  i hx := h.i (mt (@hs _) hx)
  pc hx := h.pc (mt (@hs _) hx)
  stack hx := h.stack (mt (@hs _) hx)
  mem hx := h.mem (mt (@hs _) hx)
  fb hx := h.fb (mt (@hs _) hx)
  dt hx := h.dt (mt (@hs _) hx)
  st hx := h.st (mt (@hs _) hx)
  paused hx := h.paused (mt (@hs _) hx)
  stepMode hx := h.stepMode (mt (@hs _) hx)
  stepArmed hx := h.stepArmed (mt (@hs _) hx)
  quit hx := h.quit (mt (@hs _) hx)
  fault hx := h.fault (mt (@hs _) hx)
  presents hx := h.presents (mt (@hs _) hx)
  inputs hx := h.inputs (mt (@hs _) hx)
  cycle hx := h.cycle (mt (@hs _) hx)
  debug := h.debug
  romLen := h.romLen

theorem Frame.mono {ps qs : List Part} {s t : State} (h : Frame ps s t) (hs : ps ⊆ qs) : Frame qs s t :=
  ⟨h.toOnlyChanges.mono hs, fun hx => h.memData (mt (@hs _) hx)⟩

theorem Frame.refl (ps : List Part) (s : State) : Frame ps s s := ⟨OnlyChanges.refl ps s, fun _ => rfl⟩

theorem Frame.trans {ps qs : List Part} {s t u : State} (h : Frame ps s t) (k : Frame qs t u) : Frame (ps ++ qs) s u where
  toOnlyChanges := h.toOnlyChanges.trans k.toOnlyChanges
  memData hx := by
    rw [List.mem_append, not_or] at hx
    rw [k.memData hx.2, h.memData hx.1]

variable (s : State)

theorem State.setReg_frame (x : RegIx) (b : Byte) : Frame [.reg x] s (s.setReg x b) := ⟨s.setReg_onlyChanges x b, fun _ => rfl⟩
theorem State.setResultAndFlag_frame (x : RegIx) (r f : Byte) : Frame [.reg x, .reg vf] s (s.setResultAndFlag x r f) :=
  ⟨s.setResultAndFlag_onlyChanges x r f, fun _ => rfl⟩
theorem State.setI_frame (a : Addr) : Frame [.i] s (s.setI a) := ⟨by constructor <;> simp, fun _ => rfl⟩
theorem State.setPc_frame (a : Addr) : Frame [.pc] s (s.setPc a) := ⟨by constructor <;> simp, fun _ => rfl⟩
theorem State.setStack_frame (l : List Addr) : Frame [.stack] s (s.setStack l) := ⟨by constructor <;> simp, fun _ => rfl⟩
theorem State.setMem_frame (m : Memory) : Frame [.mem] s (s.setMem m) := ⟨by constructor <;> simp, by simp⟩
theorem State.setFb_frame (f : Framebuffer) : Frame [.fb] s (s.setFb f) := ⟨by constructor <;> simp, fun _ => rfl⟩
theorem State.setDt_frame (b : Byte) : Frame [.dt] s (s.setDt b) := ⟨by constructor <;> simp, fun _ => rfl⟩
theorem State.setSt_frame (b : Byte) : Frame [.st] s (s.setSt b) := ⟨by constructor <;> simp, fun _ => rfl⟩
theorem State.raise_frame (f : FaultRecord) : Frame [.fault] s (s.raise f) := ⟨by constructor <;> simp, fun _ => rfl⟩
theorem State.present_frame (p : PresentSite) : Frame [.presents, .fault] s (s.present p) :=
  ⟨by constructor <;> simp, fun _ => s.present_mem p⟩
theorem State.skipIf_frame (c : Bool) : Frame [.pc] s (s.skipIf c) := ⟨by constructor <;> simp, fun _ => s.skipIf_mem c⟩

/-- The parts `V0 .. V(n-1)`. -/
def firstRegParts (n : Nat) : List Part := (List.range n).map fun k => .reg (BitVec.ofNat 4 k)

theorem State.loadRegs_frame (base n : Nat) : Frame (firstRegParts n) s (s.loadRegs base n) := by
  induction n with
  | zero => exact Frame.refl _ s
  | succ n ih =>
    rw [State.loadRegs_succ, firstRegParts, List.range_succ, List.map_append]
    exact ih.trans (State.setReg_frame _ _ _)

/-- FX55 and FX65 leave `I` (46_memory_transfer.md R171, R172; log entry 9). -/
theorem indexAfterTransfer_eq (i : Addr) (x : RegIx) : indexAfterTransfer i x = i := rfl

theorem State.loadRegs_setI (base n : Nat) : (s.loadRegs base n).setI s.i = s.loadRegs base n := by
  rw [State.loadRegs_eq]; rfl

variable {s}

/-- A range-checked write changes what it writes, or the fault record alone. -/
theorem State.rangeChecked_frame {ps : List Part} {t u : State} {i : Instr} {base count : Nat} (hu : Frame ps s u)
    (h : s.rangeChecked i base count u = .next t) : Frame (ps ++ [.fault]) s t := by
  rcases State.rangeChecked_next h with ⟨-, -, rfl⟩ | rfl
  · exact (s.raise_frame _).mono (List.subset_append_right _ _)
  · exact hu.mono (List.subset_append_left _ _)

/-! ## The frame of every instruction -/

/-- The parts each instruction may change. -/
def mayWrite : Instr → List Part
  | .sys _ => []
  | .cls => [.fb, .presents, .fault]
  | .ret | .call _ => [.stack, .pc, .fault]
  | .jp _ | .jpV0 _ | .seImm _ _ | .sneImm _ _ | .seReg _ _ | .sneReg _ _ => [.pc]
  | .skp _ | .sknp _ => [.pc, .fault]
  | .ldImm x _ | .addImm x _ | .ldReg x _ | .orReg x _ | .andReg x _ | .xorReg x _ | .rnd x _ | .ldVxDt x => [.reg x]
  | .addReg x _ | .sub x _ | .shr x _ | .subn x _ | .shl x _ => [.reg x, .reg vf]
  | .ldVxK x => [.reg x, .pc]
  | .drw _ _ _ => [.fb, .reg vf, .presents, .fault]
  | .ldI _ | .addI _ | .ldF _ => [.i]
  | .ldDtVx _ => [.dt]
  | .ldStVx _ => [.st]
  | .ldB _ | .ldMemVx _ => [.mem, .fault]
  | .ldVxMem x => firstRegParts (regCount x) ++ [.fault]

/-- Every instruction changes at most the parts `mayWrite` names. -/
theorem exec_frame {i : Instr} {t : State} (h : exec i s = .next t) : Frame (mayWrite i) s t := by
  cases i
  case sys => cases h; exact Frame.refl _ s
  case cls => cases h; exact (s.setFb_frame _).trans (State.present_frame _ _)
  case ret | call =>
    simp only [exec, execRet, execCall] at h
    split at h <;> cases h
    · exact (s.raise_frame _).mono (by simp [mayWrite])
    · exact ((s.setStack_frame _).trans (State.setPc_frame _ _)).mono (by simp [mayWrite])
  case skp | sknp =>
    simp only [exec, execSkp, execSknp] at h
    split at h <;> cases h
    · exact (s.raise_frame _).mono (by simp [mayWrite])
    · exact (s.skipIf_frame _).mono (by simp [mayWrite])
  case ldVxK =>
    simp only [exec, execLdVxK] at h
    split at h <;> cases h
    · exact (s.setPc_frame _).mono (by simp [mayWrite])
    · exact (s.setReg_frame _ _).mono (by simp [mayWrite])
  case drw =>
    exact (State.rangeChecked_frame (((s.setFb_frame _).trans (State.setReg_frame _ _ _)).trans
      (State.present_frame _ _)) h).mono (by simp [mayWrite])
  case ldB => exact State.rangeChecked_frame (s.setMem_frame _) h
  case ldMemVx =>
    simp only [exec, execLdMemVx, indexAfterTransfer_eq] at h
    exact State.rangeChecked_frame (s.setMem_frame _) h
  case ldVxMem =>
    simp only [exec, execLdVxMem, indexAfterTransfer_eq, State.loadRegs_setI] at h
    exact State.rangeChecked_frame (s.loadRegs_frame _ _) h
  case jp | jpV0 => cases h; exact s.setPc_frame _
  case seImm | sneImm | seReg | sneReg => cases h; exact s.skipIf_frame _
  case ldImm | addImm | ldReg | orReg | andReg | xorReg | rnd | ldVxDt => cases h; exact s.setReg_frame _ _
  case addReg | sub | shr | subn | shl => cases h; exact s.setResultAndFlag_frame _ _ _
  case ldI | addI | ldF => cases h; exact s.setI_frame _
  case ldDtVx => cases h; exact s.setDt_frame _
  case ldStVx => cases h; exact s.setSt_frame _

end Sys2Proof.Machine
end

section
/-!
SUPPORT. The only-by rules of 10_state.md, read off the frame of every instruction.
-/

namespace Sys2Proof.Machine

variable {i : Instr} {s t : State}

/-! ## The instructions that may write a part -/

theorem stack_mem_mayWrite : Part.stack ∈ mayWrite i ↔ i = .ret ∨ ∃ nnn, i = .call nnn := by
  cases i <;> simp [mayWrite, firstRegParts]

theorem fb_mem_mayWrite : Part.fb ∈ mayWrite i ↔ i = .cls ∨ ∃ x y n, i = .drw x y n := by
  cases i <;> simp [mayWrite, firstRegParts]

theorem presents_mem_mayWrite : Part.presents ∈ mayWrite i ↔ i = .cls ∨ ∃ x y n, i = .drw x y n := by
  cases i <;> simp [mayWrite, firstRegParts]

theorem mem_mem_mayWrite : Part.mem ∈ mayWrite i ↔ ∃ x, i = .ldB x ∨ i = .ldMemVx x := by
  cases i <;> simp [mayWrite, firstRegParts]

theorem dt_mem_mayWrite : Part.dt ∈ mayWrite i ↔ ∃ x, i = .ldDtVx x := by
  cases i <;> simp [mayWrite, firstRegParts]

theorem st_mem_mayWrite : Part.st ∈ mayWrite i ↔ ∃ x, i = .ldStVx x := by
  cases i <;> simp [mayWrite, firstRegParts]

theorem i_mem_mayWrite : Part.i ∈ mayWrite i ↔ (∃ nnn, i = .ldI nnn) ∨ ∃ x, i = .addI x ∨ i = .ldF x := by
  cases i <;> simp [mayWrite, firstRegParts]

/-- No instruction writes the run-state (10_state.md R31) or takes a draw of a later cycle. -/
theorem runState_notMem_mayWrite {p : Part} (hp : p ∈ [.paused, .stepMode, .stepArmed, .quit, .draws]) : p ∉ mayWrite i := by
  simp only [List.mem_cons, List.not_mem_nil, or_false] at hp
  rcases hp with rfl | rfl | rfl | rfl | rfl <;> cases i <;> simp [mayWrite, firstRegParts]

theorem reg_mem_firstRegParts {x : RegIx} {n : Nat} (hn : n ≤ 16) : Part.reg x ∈ firstRegParts n ↔ x.toNat < n := by
  simp only [firstRegParts, List.mem_map, List.mem_range, Part.reg.injEq]
  constructor
  · rintro ⟨k, hk, rfl⟩
    rwa [BitVec.toNat_ofNat, Nat.mod_eq_of_lt (by omega)]
  · exact fun h => ⟨x.toNat, h, by simp⟩

/-- FX65 reaches `VF` only where it names it: `VF` is the last of `V0 .. Vx`. -/
theorem eq_vf_of_mem_mayWrite_ldVxMem {x : RegIx} (h : Part.reg vf ∈ mayWrite (.ldVxMem x)) : x = vf := by
  have hk : Part.reg vf ∈ firstRegParts (regCount x) := by simpa [mayWrite] using h
  have hlt : vf.toNat < regCount x := (reg_mem_firstRegParts x.isLt).mp hk
  have hx := x.isLt
  apply BitVec.eq_of_toNat_eq
  simp only [regCount, vf, BitVec.toNat_ofNat] at hlt ⊢
  omega

/-! ## The obligations -/

/-- Settles O53: `VF` lies in the frame of these instructions only. -/
theorem whoWritesVF : Obligations.WhoWritesVF := by
  intro i s t h hne
  have hmem : Part.reg vf ∈ mayWrite i := not_imp_comm.mp ((exec_frame h).reg vf) hne
  cases i
  case addReg | sub | shr | subn | shl | drw => simp
  case ldImm | addImm | rnd | ldReg | orReg | andReg | xorReg | ldVxDt | ldVxK =>
    obtain rfl : vf = _ := by simpa [mayWrite] using hmem
    simp
  case ldVxMem => simp [eq_vf_of_mem_mayWrite_ldVxMem hmem]
  all_goals simp [mayWrite] at hmem

/-- Settles O54: a part that changed lies in the frame of the instruction. -/
theorem whoWritesWhat : Obligations.WhoWritesWhat := by
  intro i s t h
  have fr := exec_frame h
  refine ⟨fun hne => stack_mem_mayWrite.mp (not_imp_comm.mp fr.stack hne), ?_, ?_,
    fun hne => dt_mem_mayWrite.mp (not_imp_comm.mp fr.dt hne), fun hne => st_mem_mayWrite.mp (not_imp_comm.mp fr.st hne),
    fun hne => i_mem_mayWrite.mp (not_imp_comm.mp fr.i hne)⟩
  · rintro (hne | hne)
    · exact fb_mem_mayWrite.mp (not_imp_comm.mp fr.fb hne)
    · exact presents_mem_mayWrite.mp (not_imp_comm.mp fr.presents hne)
  · rintro ⟨a, hne⟩
    exact mem_mem_mayWrite.mp (not_imp_comm.mp (fun hx => fr.mem hx a) hne)

/-- Settles O55: the run-state, the launch configuration and the draws lie in no frame. -/
theorem noInstructionWritesRunState : Obligations.NoInstructionWritesRunState := by
  intro i s t h
  have fr := exec_frame h
  exact ⟨fr.paused (runState_notMem_mayWrite (by simp)), fr.stepMode (runState_notMem_mayWrite (by simp)),
    fr.stepArmed (runState_notMem_mayWrite (by simp)), fr.quit (runState_notMem_mayWrite (by simp)), fr.debug, fr.romLen,
    fr.inputs (runState_notMem_mayWrite (by simp)), fr.cycle (runState_notMem_mayWrite (by simp))⟩

end Sys2Proof.Machine
end

section
/-!
SUPPORT. Every step keeps the invariant of the core (10_state.md R25, 70_reset_and_hazards.md R246).
-/

namespace Sys2Proof.Machine

variable {s t : State}

/-- The invariant speaks of memory, stack, `debug_enabled`, `paused` and `step_mode` only. -/
theorem Inv.congr (h : Inv s) (hmem : t.mem = s.mem) (hstack : t.stack = s.stack) (hdebug : t.debugEnabled = s.debugEnabled)
    (hpaused : t.paused = s.paused) (hmode : t.stepMode = s.stepMode) : Inv t where
  memory := hmem ▸ h.memory
  stackBound := hstack ▸ h.stackBound
  returns := hstack ▸ h.returns
  debugOff := by rw [hdebug, hpaused, hmode]; exact h.debugOff

/-! ## The phases around the instruction -/

/-- PAUSE flips `paused` only with `debug_enabled` (60_exceptions.md R216). -/
theorem Inv.pauseSignal (h : Inv s) : Inv s.pauseSignal where
  memory := by simpa using h.memory
  stackBound := by simpa using h.stackBound
  returns := by simpa using h.returns
  debugOff hd := by
    have hd' : s.debugEnabled = false := by simpa using hd
    simpa [State.pauseSignal, hd'] using h.debugOff hd'

/-- TOGGLE_STEP_MODE flips `step_mode` only with `debug_enabled` (60_exceptions.md R217). -/
theorem Inv.toggleStepModeSignal (h : Inv s) : Inv s.toggleStepModeSignal where
  memory := by simpa using h.memory
  stackBound := by simpa using h.stackBound
  returns := by simpa using h.returns
  debugOff hd := by
    have hd' : s.debugEnabled = false := by simpa using hd
    simpa [State.toggleStepModeSignal, hd'] using h.debugOff hd'

/-- RESET empties the stack and leaves the debug flags (70_reset_and_hazards.md R243). -/
theorem Inv.resetTransition (h : Inv s) : Inv s.resetTransition where
  memory := by simpa using memoryAfterReset_wf s.romLen h.memory
  stackBound := by simp
  returns := by simp
  debugOff := by simpa using h.debugOff

theorem Inv.applySignals (h : Inv s) (g : Signals) : Inv (s.applySignals g) :=
  s.applySignals_induction g h (fun _ k => k.congr rfl rfl rfl rfl rfl) (fun _ k => k.pauseSignal)
    (fun _ k => k.toggleStepModeSignal) (fun _ k => k.congr rfl rfl rfl rfl rfl) (fun _ k => k.resetTransition)

theorem Inv.finishCycle (h : Inv s) : Inv s.finishCycle :=
  s.finishCycle_induction h (fun _ k => k.congr (by simp) (by simp) (by simp) (by simp) (by simp))
    (fun _ g k => k.applySignals g) (fun _ k => k.congr rfl rfl rfl rfl rfl) (fun _ k => k.congr rfl rfl rfl rfl rfl)

theorem Inv.tickPhase (h : Inv s) : Inv s.tickPhase := h.congr (by simp) (by simp) (by simp) (by simp) (by simp)

theorem Inv.atExecute (h : Inv s) : Inv s.atExecute := h.congr (by simp) (by simp) (by simp) (by simp) (by simp)

/-- `PC` past a word that was fetched is a return address (20_memory.md R57). -/
theorem Fetches.returnAddress_pc (h : Fetches s) : ReturnAddress s.atExecute.pc := by
  obtain ⟨-, -, hpc⟩ := h
  simp only [ReturnAddress, State.atExecute_pc, BitVec.toNat_add, BitVec.toNat_ofNat]
  omega

/-! ## The instruction -/

/-- Every instruction keeps memory canonical: LD B and LD [I], Vx write byte by byte, the others leave it. -/
theorem exec_mem_wf {i : Instr} (h : exec i s = .next t) (hwf : s.mem.wf = true) : t.mem.wf = true := by
  by_cases hi : Part.mem ∈ mayWrite i
  · obtain ⟨x, rfl | rfl⟩ := mem_mem_mayWrite.mp hi <;> rcases State.rangeChecked_next h with ⟨-, -, rfl⟩ | rfl
    · exact hwf
    · exact Memory.writeBytes_wf _ _ hwf
    · exact hwf
    · exact Memory.writeBytes_wf _ _ hwf
  · rw [(exec_frame h).memData hi]; exact hwf

/-- All that can become of the stack: as it was, one entry fewer, or `PC` pushed below the capacity (10_state.md R25). -/
theorem exec_stack_cases {i : Instr} (h : exec i s = .next t) :
    t.stack = s.stack ∨ t.stack = s.stack.dropLast ∨
      (s.stack.length < Config.stackCapacity ∧ t.stack = s.stack ++ [s.pc]) := by
  by_cases hi : Part.stack ∈ mayWrite i
  · obtain rfl | ⟨nnn, rfl⟩ := stack_mem_mayWrite.mp hi
    · simp only [exec, execRet] at h
      split at h <;> cases h <;> simp
    · simp only [exec, execCall] at h
      split at h <;> cases h
      · exact .inl rfl
      · exact .inr (.inr ⟨Nat.lt_of_not_le ‹_›, rfl⟩)
  · exact .inl ((exec_frame h).stack hi)

/-- An instruction executed with `PC` past the word fetched keeps the invariant. -/
theorem exec_inv {i : Instr} (h : exec i s = .next t) (hs : Inv s) (hpc : ReturnAddress s.pc) : Inv t := by
  obtain ⟨hpaused, hmode, -, -, hdebug, -⟩ := noInstructionWritesRunState i s t h
  have hstack : t.stack.length ≤ Config.stackCapacity ∧ ∀ a ∈ t.stack, ReturnAddress a := by
    rcases exec_stack_cases h with e | e | ⟨hlen, e⟩ <;> rw [e]
    · exact ⟨hs.stackBound, hs.returns⟩
    · exact ⟨by rw [List.length_dropLast]; exact (Nat.sub_le _ _).trans hs.stackBound,
        fun a ha => hs.returns a (List.mem_of_mem_dropLast ha)⟩
    · refine ⟨by simpa using hlen, fun a ha => ?_⟩
      obtain ha | rfl := by simpa using ha
      · exact hs.returns a ha
      · exact hpc
  exact { memory := exec_mem_wf h hs.memory, stackBound := hstack.1, returns := hstack.2,
          debugOff := by rw [hdebug, hpaused, hmode]; exact hs.debugOff }

/-- Settles O58: one case for each way a step answers a next state. -/
theorem stepKeepsInv : Obligations.StepKeepsInv := by
  intro s t hs h
  obtain ⟨-, ⟨-, rfl⟩ | ⟨-, -, rfl⟩ | ⟨-, -, rfl⟩ | ⟨hf, i, u, -, hu, rfl⟩⟩ := step_cases h
  · exact hs.tickPhase.finishCycle
  · exact hs.tickPhase.congr rfl rfl rfl rfl rfl
  · exact hs.atExecute.congr rfl rfl rfl rfl rfl
  · exact (exec_inv hu hs.atExecute hf.returnAddress_pc).finishCycle

end Sys2Proof.Machine
end

section
/-!
SUPPORT. The snapshot handed to the backend lists the cells row by row (10_state.md R27).
-/

namespace Sys2Proof.Machine

/-- `h` rows of `w` cells each, one after the other. -/
def rowMajor (g : Nat → Nat → Bool) (w h : Nat) : List Bool := (List.range h).flatMap fun y => (List.range w).map (g y)

theorem rowMajor_succ (g : Nat → Nat → Bool) (w h : Nat) : rowMajor g w (h + 1) = rowMajor g w h ++ (List.range w).map (g h) := by
  simp [rowMajor, List.range_succ]

theorem rowMajor_length (g : Nat → Nat → Bool) (w h : Nat) : (rowMajor g w h).length = h * w := by
  simp [rowMajor]

theorem rowMajor_getElem? (g : Nat → Nat → Bool) {w h x y : Nat} (hx : x < w) (hy : y < h) :
    (rowMajor g w h)[y * w + x]? = some (g y x) := by
  induction h with
  | zero => omega
  | succ n ih =>
    rw [rowMajor_succ]
    obtain hlt | rfl : y < n ∨ y = n := by omega
    · have hin : y * w + x < n * w :=
        calc y * w + x < y * w + w := Nat.add_lt_add_left hx _
          _ = (y + 1) * w := (Nat.succ_mul y w).symm
          _ ≤ n * w := Nat.mul_le_mul_right w hlt
      rw [List.getElem?_append_left (by rwa [rowMajor_length]), ih hlt]
    · rw [List.getElem?_append_right (by rw [rowMajor_length]; omega), rowMajor_length, Nat.add_sub_cancel_left]
      simp [hx]

theorem Framebuffer.snapshot_eq_rowMajor (f : Framebuffer) :
    Framebuffer.snapshot f = rowMajor (fun y x => Framebuffer.cell f x y) 64 32 := rfl

/-- Settles O25: the snapshot is the row-major list of 32 rows of 64 cells. -/
theorem snapshotIsRowMajor : Obligations.SnapshotIsRowMajor := by
  intro f
  rw [Framebuffer.snapshot_eq_rowMajor]
  exact ⟨rowMajor_length _ 64 32, fun x y hx hy => rowMajor_getElem? _ hx hy⟩

end Sys2Proof.Machine
end

section
/-!
SUPPORT. No instruction reads the run-state (10_state.md R30, R31): executing commutes with replacing it.
-/

namespace Sys2Proof.Machine

/-- The state with another run-state and debug flag. -/
def State.withRunState (s : State) (p m r d q : Bool) : State :=
  { s with paused := p, stepMode := m, stepArmed := r, debugEnabled := d, quit := q }

variable (s : State) (p m r d q : Bool)

theorem State.skipIf_withRunState (c : Bool) :
    (s.withRunState p m r d q).skipIf c = (s.skipIf c).withRunState p m r d q := by cases c <;> rfl

theorem State.present_withRunState (site : PresentSite) :
    (s.withRunState p m r d q).present site = (s.present site).withRunState p m r d q := by
  by_cases h : site ∈ s.input.failing
  · rw [State.present_fails _ h]; exact State.present_fails _ h
  · rw [State.present_succeeds _ h]; exact State.present_succeeds _ h

theorem State.loadRegs_withRunState (base n : Nat) :
    (s.withRunState p m r d q).loadRegs base n = (s.loadRegs base n).withRunState p m r d q := by
  induction n with
  | zero => rfl
  | succ n ih => rw [State.loadRegs_succ, State.loadRegs_succ, ih]; rfl

@[simp] theorem State.withRunState_reg (x : RegIx) : (s.withRunState p m r d q).reg x = s.reg x := rfl
@[simp] theorem State.withRunState_stack : (s.withRunState p m r d q).stack = s.stack := rfl
@[simp] theorem State.withRunState_input : (s.withRunState p m r d q).input = s.input := rfl

variable {s}

theorem State.rangeChecked_withRunState {t u : State} {i : Instr} {base count : Nat}
    (h : s.rangeChecked i base count u = .next t) :
    (s.withRunState p m r d q).rangeChecked i base count (u.withRunState p m r d q) = .next (t.withRunState p m r d q) := by
  unfold State.rangeChecked at h ⊢
  split at h <;> cases h <;> rfl

/-- An instruction does the same with another run-state: its operands and its conditions are none of those five bits. -/
theorem exec_withRunState {i : Instr} {t : State} (h : exec i s = .next t) :
    exec i (s.withRunState p m r d q) = .next (t.withRunState p m r d q) := by
  cases i
  case cls => cases h; exact congrArg Host.Outcome.next ((s.setFb Framebuffer.clear).present_withRunState p m r d q .instruction)
  case seImm | sneImm | seReg | sneReg => cases h; exact congrArg Host.Outcome.next (s.skipIf_withRunState p m r d q _)
  case ret =>
    simp only [exec, execRet, State.withRunState_stack] at h ⊢
    cases hl : s.stack.getLast? <;> simp only [hl] at h ⊢ <;> cases h <;> rfl
  case call =>
    simp only [exec, execCall] at h
    split at h <;> cases h
    · exact if_pos ‹_›
    · exact if_neg ‹_›
  case skp | sknp =>
    simp only [exec, execSkp, execSknp] at h
    split at h <;> cases h
    · exact if_pos ‹_›
    · exact (if_neg ‹_›).trans (congrArg Host.Outcome.next (s.skipIf_withRunState p m r d q _))
  case ldVxK =>
    simp only [exec, execLdVxK, State.withRunState_input] at h ⊢
    cases hk : s.input.pendingKey <;> simp only [hk] at h ⊢ <;> cases h <;> rfl
  case drw x y n =>
    have hdraw := State.rangeChecked_withRunState p m r d q h
    rw [← State.present_withRunState] at hdraw
    exact hdraw
  case ldB => exact State.rangeChecked_withRunState p m r d q h
  case ldMemVx => exact State.rangeChecked_withRunState (u := (s.setMem _).setI _) p m r d q h
  case ldVxMem =>
    simp only [exec, execLdVxMem, State.loadRegs_withRunState]
    exact State.rangeChecked_withRunState p m r d q h
  all_goals cases h; rfl

/-- Settles O56: executing commutes with replacing the run-state. -/
theorem noInstructionReadsRunState : Obligations.NoInstructionReadsRunState :=
  fun _ _ _ p m r d q h => exec_withRunState p m r d q h

end Sys2Proof.Machine
end

section
/-!
SUPPORT. Memory as the machine sees it (20_memory.md): checked reads after writes, and the canonical form as the one form of its
contents.
-/

namespace Sys2Proof.Machine

/-! ## Checked reads -/

theorem Memory.read?_of_lt (m : Memory) {a : Nat} (ha : a < 4096) : m.read? a = some (m.read a) := if_pos ha

theorem Memory.read?_of_le (m : Memory) {a : Nat} (ha : 4096 ≤ a) : m.read? a = none := if_neg (Nat.not_lt.mpr ha)

theorem Memory.write_of_le (m : Memory) {a : Nat} (v : Byte) (ha : 4096 ≤ a) : m.write a v = m := if_neg (Nat.not_lt.mpr ha)

/-- Settles O46: the laws of reading after writing, under the range check of `MemRead`. -/
theorem memoryReadsLastWrite : Obligations.MemoryReadsLastWrite := by
  intro m a v hwf
  refine ⟨fun ha => ?_, fun ha => ⟨m.read?_of_le ha, m.write_of_le v ha⟩, fun c hc => ?_⟩
  · rw [Memory.read?_of_lt _ ha, Memory.read_write_same v hwf ha]
  · unfold Memory.read?
    rw [Memory.read_write_other m v hc]

/-! ## The canonical form is unique -/

/-- The first address listed is one no other canonical memory with the same contents can start after: its byte is not the
one an unlisted address reads as. -/
theorem Memory.lowerBound_le_head {lo lo' k : Nat} {b : Byte} {rest m : Memory} (h : Memory.wfFrom lo ((k, b) :: rest) = true)
    (hm : Memory.wfFrom lo' m = true) (hr : ∀ a, a < 4096 → Memory.read ((k, b) :: rest) a = m.read a) : lo' ≤ k := by
  obtain ⟨-, hk, hb, -⟩ := Memory.wfFrom_cons.mp h
  by_contra hlt
  have hread := hr k hk
  rw [Memory.read, if_pos rfl, Memory.read_below hm (Nat.lt_of_not_le hlt)] at hread
  exact hb hread

/-- A canonical non-empty list is canonical from its own first address. -/
theorem Memory.wfFrom_head {lo k : Nat} {b : Byte} {rest : Memory} (h : Memory.wfFrom lo ((k, b) :: rest) = true) :
    Memory.wfFrom k ((k, b) :: rest) = true :=
  Memory.wfFrom_cons.mpr ⟨Nat.le_refl k, (Memory.wfFrom_cons.mp h).2⟩

/-- No canonical non-empty list reads as the empty one: it would start at or after 4096. -/
theorem Memory.cons_not_read_as_nil {lo k : Nat} {b : Byte} {rest : Memory} (h : Memory.wfFrom lo ((k, b) :: rest) = true) :
    ¬ ∀ a, a < 4096 → Memory.read ((k, b) :: rest) a = Memory.read [] a := by
  intro hr
  obtain ⟨-, hk, -, -⟩ := Memory.wfFrom_cons.mp h
  exact absurd (Memory.lowerBound_le_head (lo' := 4096) h rfl hr) (Nat.not_le.mpr hk)

/-- Lists with the same head that read alike have tails that read alike: at and below the head both tails list nothing. -/
theorem Memory.tails_read_alike {lo lo' k : Nat} {b : Byte} {rest rest' : Memory}
    (h : Memory.wfFrom lo ((k, b) :: rest) = true) (h' : Memory.wfFrom lo' ((k, b) :: rest') = true)
    (hr : ∀ a, a < 4096 → Memory.read ((k, b) :: rest) a = Memory.read ((k, b) :: rest') a) :
    ∀ a, a < 4096 → rest.read a = rest'.read a := by
  intro a ha
  obtain ⟨-, -, -, ht⟩ := Memory.wfFrom_cons.mp h
  obtain ⟨-, -, -, ht'⟩ := Memory.wfFrom_cons.mp h'
  by_cases hka : k = a
  · rw [Memory.read_below ht (by omega), Memory.read_below ht' (by omega)]
  · simpa [Memory.read, hka] using hr a ha

/-- Canonical memories that read alike are the same list, from whichever lower bounds they are canonical. -/
theorem Memory.eq_of_reads_alike {lo lo' : Nat} {m m' : Memory} (h : Memory.wfFrom lo m = true)
    (h' : Memory.wfFrom lo' m' = true) (hr : ∀ a, a < 4096 → m.read a = m'.read a) : m = m' := by
  induction m generalizing lo lo' m' with
  | nil =>
    cases m' with
    | nil => rfl
    | cons c rest' => exact absurd (fun a ha => (hr a ha).symm) (Memory.cons_not_read_as_nil h')
  | cons c rest ih =>
    obtain ⟨k, b⟩ := c
    cases m' with
    | nil => exact absurd hr (Memory.cons_not_read_as_nil h)
    | cons c' rest' =>
      obtain ⟨k', b'⟩ := c'
      obtain rfl : k = k' := Nat.le_antisymm
        (Memory.lowerBound_le_head h' (Memory.wfFrom_head h) fun a ha => (hr a ha).symm)
        (Memory.lowerBound_le_head h (Memory.wfFrom_head h') hr)
      obtain ⟨-, hk, -, ht⟩ := Memory.wfFrom_cons.mp h
      obtain ⟨-, -, -, ht'⟩ := Memory.wfFrom_cons.mp h'
      obtain rfl : b = b' := by simpa [Memory.read] using hr k hk
      rw [ih ht ht' (Memory.tails_read_alike h h' hr)]

/-- Settles O47: a canonical memory is determined by its reads, by induction on the two lists. -/
theorem canonicalMemoriesAreEqual : Obligations.CanonicalMemoriesAreEqual :=
  fun _ _ hm hk hr => Memory.eq_of_reads_alike hm hk hr

end Sys2Proof.Machine
end

section
/-!
SUPPORT. The fetch (20_memory.md R55, R57): the word it reads, after bytes were stored at its address too, and its bound.
-/

namespace Sys2Proof.Machine

/-! ## The word fetched where bytes were stored -/

/-- The word at the start of the bytes written is made of the first two of them, high byte first (20_memory.md R55). -/
theorem fetchWord_writeBytes {m : Memory} {base : Nat} {l : List Byte} (hwf : m.wf = true) (hl : 1 < l.length)
    (hb : base + 1 < 4096) : fetchWord (m.writeBytes base l) base = wordOfBytes l[0] l[1] := by
  have h0 := Memory.read_writeBytes_inside (k := 0) hwf (Nat.zero_lt_of_lt hl) (Nat.lt_of_succ_lt hb)
  have h1 := Memory.read_writeBytes_inside (k := 1) hwf hl hb
  rw [fetchWord, h1, ← h0, Nat.add_zero]

/-- FX55 whose bytes all exist leaves `V0 .. Vx` in memory from `I` up (46_memory_transfer.md R171). -/
theorem exec_ldMemVx_mem {x : RegIx} {s t : State} (hr : s.i.toNat + x.toNat < 4096) (h : exec (.ldMemVx x) s = .next t) :
    t.mem = s.mem.writeBytes s.i.toNat (s.firstRegs (regCount x)) := by
  have hok : s.i.toNat + regCount x ≤ Config.memSize := hr
  rw [exec, execLdMemVx, State.rangeChecked_ok _ _ _ (.inr hok)] at h
  cases h
  rfl

/-- Settles O48: the fetch reads the first two bytes FX55 stored, which are V0 and V1. -/
theorem fetchSeesStoredBytes : Obligations.FetchSeesStoredBytes := by
  intro x s t u hwf hx hr h hmem hpc
  have hlen : 1 < (s.firstRegs (regCount x)).length := by rw [State.firstRegs_length]; exact Nat.succ_lt_succ hx
  rw [State.nextWord, hmem, hpc, exec_ldMemVx_mem hr h, fetchWord_writeBytes hwf hlen (by omega),
    State.firstRegs_get, State.firstRegs_get]
  rfl

/-! ## A table word -/

theorem tableWordBytes_toNat (w : Word) : tableWordBytes 16 w.toNat = [highByte w, lowByte w] := by
  rw [tableWordBytes, Nat.mod_eq_of_lt w.isLt, BitVec.ofNat_toNat, BitVec.setWidth_eq]

/-- The decoder of a table word of 16 bits is the decoder of words. -/
theorem decodeTableWord_toNat (w : Word) : decodeTableWord 16 w.toNat = (decode w).toOption := by
  rw [decodeTableWord, tableWordBytes_toNat, decodeBytes_cons, wordOfBytes_split]
  cases decode w <;> rfl

theorem State.withFetchWord_toNat (s : State) (w : Word) :
    s.withFetchWord 16 w.toNat = s.setMem (s.mem.writeBytes s.pc.toNat [highByte w, lowByte w]) := by
  rw [State.withFetchWord, State.storeFetchWord, tableWordBytes_toNat]

/-- The word laid down where the next fetch reads is the word it fetches (20_memory.md R55, R57). -/
theorem State.nextWord_withFetchWord {s : State} (w : Word) (hwf : s.mem.wf = true) (hpc : s.pc.toNat < 0xFFE) :
    (s.withFetchWord 16 w.toNat).nextWord = w := by
  rw [State.withFetchWord_toNat]
  exact (fetchWord_writeBytes hwf (by simp) (by omega)).trans (wordOfBytes_split w)

/-- Settles O6: the two bytes laid down are the word's, high byte first, and `writeBytes` changes no other byte. -/
theorem tableWordIsFetched : Obligations.TableWordIsFetched := by
  refine ⟨fun w i => ?_, fun s w hwf hpc => ⟨State.nextWord_withFetchWord w hwf hpc, ?_, fun a h0 h1 => ?_⟩⟩
  · rw [decodeTableWord_toNat]
    cases decode w <;> simp [Except.toOption]
  · exact (s.setMem_frame _).toOnlyChanges
  · rw [State.withFetchWord_toNat]
    exact Memory.read_writeBytes_outside _ _ _ (by simp only [List.length_cons, List.length_nil]; omega)

/-! ## The fetch -/

theorem State.fetch_of_lt {s : State} (hpc : s.pc.toNat < 0xFFE) : s.fetch = .ok (s.nextWord, s.setPc (s.pc + 2#16)) :=
  if_neg (Nat.not_le.mpr hpc)

theorem State.fetch_of_le {s : State} (hpc : 0xFFE ≤ s.pc.toNat) : s.fetch = .error (.programCounterOutOfBounds s.pc) :=
  if_pos hpc

/-- The tick changes the timers alone (60_exceptions.md R209). -/
theorem State.tickPhase_frame (s : State) : Frame [.dt, .st] s s.tickPhase :=
  ⟨by constructor <;> simp, fun _ => s.tickPhase_mem⟩

/-- Settles O35: the fetch on either side of the bound, and the cycle that ends at its fault. -/
theorem fetchReadsOrFaults : Obligations.FetchReadsOrFaults := by
  refine ⟨fun _ hpc => State.fetch_of_lt hpc, fun _ hpc => State.fetch_of_le hpc, fun s hrun hgate hpc => ?_⟩
  have hframe := (s.tickPhase_frame.trans (s.tickPhase.raise_frame (.programCounterOutOfBounds s.pc))).toOnlyChanges
  exact ⟨_, (step_running hrun).trans (runCycle_out_of_bounds hgate hpc), rfl, hframe.mono (by simp)⟩

end Sys2Proof.Machine
end

section
/-!
SUPPORT. The environment's draws reach only the instructions that ask for one (60_exceptions.md R211, R213): executing any other
commutes with replacing the draws of this and all later cycles.
-/

namespace Sys2Proof.Machine

/-- The state with other draws laid down, at another cycle count. -/
def State.withDraws (s : State) (l : List CycleInput) (n : Nat) : State := { s with inputs := l, cycle := n }

variable (s : State) (l : List CycleInput) (n : Nat)

theorem State.skipIf_withDraws (c : Bool) : (s.withDraws l n).skipIf c = (s.skipIf c).withDraws l n := by cases c <;> rfl

theorem State.loadRegs_withDraws (base k : Nat) : (s.withDraws l n).loadRegs base k = (s.loadRegs base k).withDraws l n := by
  induction k with
  | zero => rfl
  | succ k ih => rw [State.loadRegs_succ, State.loadRegs_succ, ih]; rfl

variable {s}

theorem State.rangeChecked_withDraws {t u : State} {i : Instr} {base count : Nat} (h : s.rangeChecked i base count u = .next t) :
    (s.withDraws l n).rangeChecked i base count (u.withDraws l n) = .next (t.withDraws l n) := by
  unfold State.rangeChecked at h ⊢
  split at h <;> cases h <;> rfl

/-- RET reads the stack and no draw (41_control_flow.md R101). -/
theorem execRet_withDraws {t : State} (h : execRet s = .next t) : execRet (s.withDraws l n) = .next (t.withDraws l n) := by
  have hstack : (s.withDraws l n).stack = s.stack := rfl
  unfold execRet at h ⊢
  rw [hstack]
  cases hlast : s.stack.getLast? <;> rw [hlast] at h <;> cases h <;> rfl

/-- CALL reads the stack and no draw (41_control_flow.md R103). -/
theorem execCall_withDraws {t : State} {nnn : Lit12} (h : execCall nnn s = .next t) :
    execCall nnn (s.withDraws l n) = .next (t.withDraws l n) := by
  unfold execCall at h
  split at h <;> cases h
  · exact if_pos ‹_›
  · exact if_neg ‹_›

/-- Settles O57: the instructions that ask for a draw are excluded, and each other meaning commutes with `withDraws`. -/
theorem drawsReachNoOtherInstruction : Obligations.DrawsReachNoOtherInstruction := by
  intro i s t l n hrnd hkeypad hcls hdrw h
  change exec i (s.withDraws l n) = .next (t.withDraws l n)
  cases i
  case rnd x nn => exact absurd rfl (hrnd x nn)
  case skp x => exact absurd rfl (hkeypad x).1
  case sknp x => exact absurd rfl (hkeypad x).2.1
  case ldVxK x => exact absurd rfl (hkeypad x).2.2
  case cls => exact absurd rfl hcls
  case drw x y k => exact absurd rfl (hdrw x y k)
  case seImm | sneImm | seReg | sneReg => cases h; exact congrArg Host.Outcome.next (s.skipIf_withDraws l n _)
  case ret => exact execRet_withDraws l n h
  case call => exact execCall_withDraws l n h
  case ldB => exact State.rangeChecked_withDraws l n h
  case ldMemVx => exact State.rangeChecked_withDraws (u := (s.setMem _).setI _) l n h
  case ldVxMem =>
    simp only [exec, execLdVxMem, State.loadRegs_withDraws]
    exact State.rangeChecked_withDraws l n h
  all_goals cases h; rfl

end Sys2Proof.Machine
end

section
/-!
SUPPORT. The decoder and the encoder are inverse to each other, and the words without a meaning are exactly those outside the
opcode map (30_encoding.md R74 to R82).
-/

namespace Sys2Proof

variable {w : Word} {c n : Nibble} {nn : Byte} {nnn : Lit12}

/-! ## The word of an instruction decodes to it -/

/-- SYS is well formed where its word is neither that of CLS nor that of RET (30_encoding.md R76). -/
theorem wellFormed_sys_iff : WellFormed (.sys nnn) = true ↔ encode (.sys nnn) ≠ 0x00E0#16 ∧ encode (.sys nnn) ≠ 0x00EE#16 := by
  obtain ⟨hcls, hret⟩ := wordNNN_zero_eq nnn
  simp [WellFormed, encode, hcls, hret]

theorem decodeClass0_of_ne (hcls : w ≠ 0x00E0#16) (hret : w ≠ 0x00EE#16) : decodeClass0 w = .sys (fieldNNN w) := by
  rw [decodeClass0, if_neg hcls, if_neg hret]

theorem decode_of_class_zero (hc : fieldClass w = 0x0#4) : decode w = .ok (decodeClass0 w) := by
  rw [decode, hc]; rfl

/-- The word of a well-formed SYS is left to the last case of class 0 (30_encoding.md R76). -/
theorem decode_encode_sys (h : WellFormed (.sys nnn) = true) : decode (encode (.sys nnn)) = .ok (.sys nnn) := by
  obtain ⟨hcls, hret⟩ := wellFormed_sys_iff.mp h
  have hclass : fieldClass (encode (.sys nnn)) = 0x0#4 := fieldClass_wordNNN 0x0#4 nnn
  rw [decode_of_class_zero hclass, decodeClass0_of_ne hcls hret, encode, fieldNNN_wordNNN]

/-- Settles O1: by the format of the instruction's word, whose class and, in classes 5, 8, 9, E and F, whose sub-opcode select
the instruction, and whose other fields are its operands. -/
theorem decodeOfEncode : Obligations.DecodeOfEncode := by
  intro i h
  cases i
  case sys => exact decode_encode_sys h
  case cls | ret => rfl
  case jp | call | ldI | jpV0 => simp [encode, decode]
  case seImm | sneImm | ldImm | addImm | rnd => simp [encode, decode]
  case seReg | sneReg | drw => simp [encode, decode]
  case ldReg | orReg | andReg | xorReg | addReg | sub | shr | subn | shl => simp [encode, decode, decodeClass8]
  case skp | sknp => simp [encode, decode, decodeClassE]
  case ldVxDt | ldVxK | ldDtVx | ldStVx | addI | ldF | ldB | ldMemVx | ldVxMem => simp [encode, decode, decodeClassF]

/-! ## What the decoder answers -/

theorem wordNNN_of_class (hc : (fieldClass w).toNat = c.toNat) : wordNNN c (fieldNNN w) = w := by
  rw [← BitVec.eq_of_toNat_eq hc, wordNNN_fields]

theorem wordXNN_of_class (hc : (fieldClass w).toNat = c.toNat) : wordXNN c (fieldX w) (fieldNN w) = w := by
  rw [← BitVec.eq_of_toNat_eq hc, wordXNN_fields]

theorem wordXNN_of_fields (hc : (fieldClass w).toNat = c.toNat) (hnn : (fieldNN w).toNat = nn.toNat) :
    wordXNN c (fieldX w) nn = w := by
  rw [← BitVec.eq_of_toNat_eq hnn, wordXNN_of_class hc]

theorem wordXYN_of_fields (hc : (fieldClass w).toNat = c.toNat) (hn : (fieldN w).toNat = n.toNat) :
    wordXYN c (fieldX w) (fieldY w) n = w := by
  rw [← BitVec.eq_of_toNat_eq hc, ← BitVec.eq_of_toNat_eq hn, wordXYN_fields]

/-- The two answers to a word: InvalidOpcode of itself where it is unassigned, else a well-formed instruction whose word it is
(30_encoding.md R74, R82). -/
inductive DecodeAnswer (w : Word) (unassigned : Prop) : Except DecodeError Instr → Prop where
  | instr {i : Instr} (ha : ¬unassigned) (hw : encode i = w) (hwf : WellFormed i = true) : DecodeAnswer w unassigned (.ok i)
  | invalid (ha : unassigned) : DecodeAnswer w unassigned (.error (.invalidOpcode w))

theorem decodeClass0_answer (hc : (fieldClass w).toNat = 0x0) : DecodeAnswer w False (.ok (decodeClass0 w)) := by
  have hsys : encode (.sys (fieldNNN w)) = w := wordNNN_of_class hc
  unfold decodeClass0
  split
  · exact .instr id (Eq.symm ‹_›) rfl
  · split
    · exact .instr id (Eq.symm ‹_›) rfl
    · exact .instr id hsys (wellFormed_sys_iff.mpr (by rw [hsys]; exact ⟨‹_›, ‹_›⟩))

theorem decodeClass8_answer (hc : (fieldClass w).toNat = 0x8) :
    DecodeAnswer w ((fieldN w).toNat ∉ [0x0, 0x1, 0x2, 0x3, 0x4, 0x5, 0x6, 0x7, 0xE]) (decodeClass8 w) := by
  unfold decodeClass8
  split
  case h_10 => exact .invalid (by simp_all)
  all_goals exact .instr (by simp [*]) (wordXYN_of_fields hc ‹_›) rfl

theorem decodeClassE_answer (hc : (fieldClass w).toNat = 0xE) :
    DecodeAnswer w ((fieldNN w).toNat ∉ [0x9E, 0xA1]) (decodeClassE w) := by
  unfold decodeClassE
  split
  case h_3 => exact .invalid (by simp_all)
  all_goals exact .instr (by simp [*]) (wordXNN_of_fields hc ‹_›) rfl

theorem decodeClassF_answer (hc : (fieldClass w).toNat = 0xF) :
    DecodeAnswer w ((fieldNN w).toNat ∉ [0x07, 0x0A, 0x15, 0x18, 0x1E, 0x29, 0x33, 0x55, 0x65]) (decodeClassF w) := by
  unfold decodeClassF
  split
  case h_10 => exact .invalid (by simp_all)
  all_goals exact .instr (by simp [*]) (wordXNN_of_fields hc ‹_›) rfl

/-- The words outside the opcode map: those of classes 5, 8, 9, E and F with a sub-opcode the class does not assign
(30_encoding.md R77 to R80). -/
def Unassigned (w : Word) : Prop :=
  (((fieldClass w).toNat = 0x5 ∨ (fieldClass w).toNat = 0x9) ∧ (fieldN w).toNat ≠ 0) ∨
  ((fieldClass w).toNat = 0x8 ∧ (fieldN w).toNat ∉ [0x0, 0x1, 0x2, 0x3, 0x4, 0x5, 0x6, 0x7, 0xE]) ∨
  ((fieldClass w).toNat = 0xE ∧ (fieldNN w).toNat ∉ [0x9E, 0xA1]) ∨
  ((fieldClass w).toNat = 0xF ∧ (fieldNN w).toNat ∉ [0x07, 0x0A, 0x15, 0x18, 0x1E, 0x29, 0x33, 0x55, 0x65])

/-- Class by class: the words of the classes without a sub-opcode are all assigned (30_encoding.md R75). -/
theorem decode_answer (w : Word) : DecodeAnswer w (Unassigned w) (decode w) := by
  have hlt := (fieldClass w).isLt
  unfold decode
  split <;> rename_i hc
  case h_1 => simpa [Unassigned, hc] using decodeClass0_answer hc
  case h_9 => simpa [Unassigned, hc] using decodeClass8_answer hc
  case h_15 => simpa [Unassigned, hc] using decodeClassE_answer hc
  case h_16 =>
    have hcF : (fieldClass w).toNat = 0xF := by simp only [imp_false] at *; omega
    simpa [Unassigned, hcF] using decodeClassF_answer hcF
  case h_6 | h_10 =>
    split <;> rename_i hn
    · exact .instr (by simp [Unassigned, hc, hn]) (wordXYN_of_fields hc (congrArg BitVec.toNat hn)) rfl
    · exact .invalid (by simpa [Unassigned, hc, ← BitVec.toNat_inj] using hn)
  case h_2 | h_3 | h_11 | h_12 => exact .instr (by simp [Unassigned, hc]) (wordNNN_of_class hc) rfl
  case h_4 | h_5 | h_7 | h_8 | h_13 => exact .instr (by simp [Unassigned, hc]) (wordXNN_of_class hc) rfl
  case h_14 => exact .instr (by simp [Unassigned, hc]) (wordXYN_of_fields hc rfl) rfl

/-! ## What follows from the answer -/

/-- Settles O2: an instruction is only ever answered to its own word. -/
theorem encodeOfDecode : Obligations.EncodeOfDecode := by
  intro w i hd
  have h := decode_answer w
  rw [hd] at h
  cases h with
  | instr _ hw hwf => exact ⟨hw, hwf⟩

theorem decode_ok_or_invalid (w : Word) : (∃ i, decode w = .ok i) ∨ decode w = .error (.invalidOpcode w) := by
  have h := decode_answer w
  generalize decode w = r at h
  cases h with
  | instr => exact .inl ⟨_, rfl⟩
  | invalid => exact .inr rfl

theorem decode_eq_invalid_iff : decode w = .error (.invalidOpcode w) ↔ Unassigned w := by
  have h := decode_answer w
  generalize decode w = r at h
  cases h <;> simp [*]

/-- Settles O4: the opcode map on the fields, which are these parts of the word's number. -/
theorem invalidWords : Obligations.InvalidWords := by
  intro w
  refine ⟨decode_ok_or_invalid w, ?_⟩
  rw [decode_eq_invalid_iff, Unassigned, fieldClass_toNat, fieldN_toNat, fieldNN_toNat]

/-! ## Single words -/

/-- Settles O3: below 0x1000 the class is 0 and `nnn` is the word's number. -/
theorem classZeroDecodes : Obligations.ClassZeroDecodes := by
  refine ⟨rfl, rfl, fun w hw hcls hret => ⟨fieldNNN w, ?_, ?_⟩⟩
  · rw [fieldNNN_toNat, Nat.mod_eq_of_lt (by omega)]
  · have hc : fieldClass w = 0x0#4 := BitVec.eq_of_toNat_eq (by rw [fieldClass_toNat, Nat.div_eq_of_lt (by omega)]; rfl)
    rw [decode_of_class_zero hc, decodeClass0_of_ne hcls hret]

/-- Settles O5: the decoder evaluated on each word. -/
theorem sampleWordsDecode : Obligations.SampleWordsDecode := ⟨rfl, rfl, rfl, rfl, rfl, rfl, rfl, rfl, rfl⟩

end Sys2Proof
end

section
/-!
SUPPORT. Every instruction answers a next state, and a word that is no instruction ends its cycle (60_exceptions.md R202).
-/

namespace Sys2Proof.Machine

variable (s : State)

theorem State.rangeChecked_answers_next (i : Instr) (base count : Nat) (u : State) :
    ∃ t, s.rangeChecked i base count u = .next t := by
  rcases s.rangeChecked_cases i base count u with ⟨-, -, e⟩ | ⟨-, e⟩ <;> exact ⟨_, e⟩

/-- Settles O49: a meaning that checks something enters a fault by a next state too. -/
theorem everyInstructionAnswersNext : Obligations.EveryInstructionAnswersNext := by
  intro i s
  cases i
  case ret | call | skp | sknp | ldVxK =>
    simp only [exec, execRet, execCall, execSkp, execSknp, execLdVxK]
    split <;> exact ⟨_, rfl⟩
  case drw | ldB | ldMemVx | ldVxMem => exact s.rangeChecked_answers_next _ _ _ _
  all_goals exact ⟨_, rfl⟩

/-- The tick and the advance of `PC` change the timers and `PC` alone (70_reset_and_hazards.md R245). -/
theorem State.atExecute_frame : Frame [.dt, .st, .pc] s s.atExecute := s.tickPhase_frame.trans (State.setPc_frame _ _)

/-- A step that fetches an unassigned word (60_exceptions.md R202). -/
theorem step_invalidOpcode {s : State} (hf : Fetches s) {e : DecodeError} (hd : decode s.nextWord = .error e) :
    step s = .next (s.atExecute.raise (.invalidOpcode s.nextWord s.pc)) := by
  obtain ⟨hrun, hgate, hpc⟩ := hf
  rw [step_running hrun, runCycle_fetched hgate hpc, hd]

/-- Settles O36: fault entry after the tick and the advance of `PC`, each framed. -/
theorem invalidOpcodeEndsTheCycle : Obligations.InvalidOpcodeEndsTheCycle := by
  rintro s _ hf rfl hd
  have hframe := (s.atExecute_frame.trans (s.atExecute.raise_frame (.invalidOpcode s.nextWord s.pc))).toOnlyChanges
  exact ⟨_, step_invalidOpcode hf hd, rfl, rfl, hframe.mono (by simp)⟩

end Sys2Proof.Machine
end

section
/-!
SUPPORT. Control flow (41_control_flow.md): what RET and CALL answer in each of their two cases, and from it, with the frame of each
state update, the obligations of the family.
-/

namespace Sys2Proof.Machine

variable {s : State}

/-! ## What RET and CALL answer -/

/-- While an instruction executes, `PC` holds its address plus 2 (00_scope.md R11). -/
theorem State.fetchAddr_of_pc {a : Addr} (hpc : s.pc = a + 2#16) : s.fetchAddr = a := by
  rw [State.fetchAddr, hpc, BitVec.add_sub_cancel]

theorem exec_ret_of_append {below : List Addr} {top : Addr} (hstack : s.stack = below ++ [top]) :
    exec .ret s = .next ((s.setStack below).setPc top) := by
  simp [exec, execRet, hstack]

theorem exec_ret_of_nil (hstack : s.stack = []) :
    exec .ret s = .next (s.raise (.stackUnderflow (encode .ret) s.fetchAddr)) := by
  simp [exec, execRet, hstack]

theorem exec_call_of_lt {nnn : Lit12} (hlen : s.stack.length < 16) :
    exec (.call nnn) s = .next ((s.push s.pc).setPc (zext16 nnn)) := if_neg (Nat.not_le.mpr hlen)

theorem exec_call_of_le {nnn : Lit12} (hlen : 16 ≤ s.stack.length) :
    exec (.call nnn) s = .next (s.raise (.stackOverflow (encode (.call nnn)) s.fetchAddr)) := if_pos hlen

/-- Zero extension keeps the number (30_encoding.md R72). -/
theorem zext16_toNat (nnn : Lit12) : (zext16 nnn).toNat = nnn.toNat :=
  BitVec.toNat_setWidth_of_le (by decide)

/-- RET and CALL alike replace the stack and jump. -/
theorem State.setStack_setPc_onlyChanges (s : State) (l : List Addr) (a : Addr) :
    OnlyChanges [.pc, .stack] s ((s.setStack l).setPc a) :=
  ((s.setStack_frame l).trans (State.setPc_frame _ a)).toOnlyChanges.mono (by simp)

/-! ## The obligations -/

/-- Settles O7: a class-0 word other than those of CLS and RET is a well-formed SYS. -/
theorem sysWritesNothing : Obligations.SysWritesNothing := by
  refine ⟨fun nnn hcls hret => decodeOfEncode (.sys nnn) ?_, fun _ _ => rfl⟩
  simp [WellFormed, hcls, hret]

/-- Settles O8: by the two cases of RET. -/
theorem retPopsOrUnderflows : Obligations.RetPopsOrUnderflows := by
  refine ⟨rfl, fun s below top hstack => ?_, fun s a hpc hstack => ?_⟩
  · exact ⟨_, exec_ret_of_append hstack, rfl, rfl, s.setStack_setPc_onlyChanges below top⟩
  · rw [exec_ret_of_nil hstack, State.fetchAddr_of_pc hpc]
    rfl

/-- Settles O9: the target is the literal zero-extended. -/
theorem jpSetsPc : Obligations.JpSetsPc := fun nnn =>
  ⟨decodeOfEncode (.jp nnn) rfl, fun s => ⟨_, rfl, zext16_toNat nnn, (s.setPc_frame _).toOnlyChanges⟩⟩

/-- Settles O10: by the two cases of CALL. -/
theorem callPushesOrOverflows : Obligations.CallPushesOrOverflows := by
  refine fun nnn => ⟨decodeOfEncode (.call nnn) rfl, fun s hlen => ?_, fun s a hpc hlen => ?_⟩
  · exact ⟨_, exec_call_of_lt hlen, rfl, zext16_toNat nnn, s.setStack_setPc_onlyChanges _ _⟩
  · rw [exec_call_of_le hlen.ge, State.fetchAddr_of_pc hpc]
    rfl

/-- Settles O11: both are `skipIf`, on the comparison with the immediate and on its negation. -/
theorem skipsOnImmediate : Obligations.SkipsOnImmediate := by
  refine fun x nn => ⟨decodeOfEncode (.seImm x nn) rfl, decodeOfEncode (.sneImm x nn) rfl, fun s => ⟨?_, ?_⟩⟩
  · exact ⟨_, rfl, by simp, (s.skipIf_frame _).toOnlyChanges⟩
  · exact ⟨_, rfl, by simp, (s.skipIf_frame _).toOnlyChanges⟩

/-- Settles O12: both are `skipIf`, on the comparison of the registers and on its negation. -/
theorem skipsOnRegisters : Obligations.SkipsOnRegisters := by
  refine fun x y => ⟨decodeOfEncode (.seReg x y) rfl, decodeOfEncode (.sneReg x y) rfl, fun s => ⟨?_, ?_⟩⟩
  · exact ⟨_, rfl, by simp, (s.skipIf_frame _).toOnlyChanges⟩
  · exact ⟨_, rfl, by simp, (s.skipIf_frame _).toOnlyChanges⟩

/-- Settles O13: CALL left the return address on top of the stack it found, and RET takes both back. -/
theorem returnComesBack : Obligations.ReturnComesBack := by
  intro nnn s t u hlen hcall hstack
  rw [exec_call_of_lt hlen] at hcall
  cases hcall
  exact ⟨_, exec_ret_of_append hstack, rfl, rfl⟩

end Sys2Proof.Machine
end

section
/-!
SUPPORT. Register, arithmetic and bitwise instructions (42_arithmetic.md): the results and flags as numbers, and from them, with the
two register updates and their frames, the obligations of the family.
-/

namespace Sys2Proof.Machine

/-! ## Results and flags as numbers -/

/-- The result stands unless the flag, the last write, replaces it (10_state.md R21). -/
theorem State.setResultAndFlag_reg_of_ne {s : State} {x : RegIx} (hx : x ≠ vf) (r f : Byte) :
    (s.setResultAndFlag x r f).reg x = r := by
  rw [State.setResultAndFlag_reg, if_neg hx, if_pos rfl]

theorem flagByte_decide (p : Prop) [Decidable p] : flagByte (decide p) = if p then 1#8 else 0#8 := by
  simp [flagByte]

/-- Subtraction modulo 256 (42_arithmetic.md R131). -/
theorem toNat_byte_sub (a b : Byte) : (a - b).toNat = (a.toNat + 256 - b.toNat) % 256 := by
  have := b.isLt
  rw [BitVec.toNat_sub]
  omega

theorem toNat_byte_shiftRight_one (a : Byte) : (a >>> 1).toNat = a.toNat / 2 := by
  rw [BitVec.toNat_ushiftRight, Nat.shiftRight_eq_div_pow, pow_one]

theorem toNat_byte_shiftLeft_one (a : Byte) : (a <<< 1).toNat = a.toNat * 2 % 256 := by
  rw [BitVec.toNat_shiftLeft, Nat.shiftLeft_eq, pow_one]

theorem lowBitFlag_toNat (a : Byte) : (lowBitFlag a).toNat = a.toNat % 2 := by
  rw [lowBitFlag, BitVec.toNat_and]
  exact Nat.and_one_is_mod _

theorem highBitFlag_toNat (a : Byte) : (highBitFlag a).toNat = a.toNat / 128 := by
  rw [highBitFlag, BitVec.toNat_ushiftRight, Nat.shiftRight_eq_div_pow]

/-- The shifts read `V[x]` (92_eei_decisions.md D1; log entry 8). -/
theorem State.shiftOperand_eq (s : State) (x y : RegIx) : s.shiftOperand x y = s.reg x := rfl

/-- What SUB and SUBN share: the difference stands in `V[x]` unless no-borrow, written last, replaces it (42_arithmetic.md R127,
R129). -/
theorem State.difference_and_noBorrow (s : State) (x : RegIx) (a b : Byte) :
    (x ≠ vf → ((s.setResultAndFlag x (a - b) (noBorrowFlag a b)).reg x).toNat = (a.toNat + 256 - b.toNat) % 256) ∧
    (s.setResultAndFlag x (a - b) (noBorrowFlag a b)).reg vf = (if b.toNat ≤ a.toNat then 1#8 else 0#8) ∧
    OnlyChanges [.reg x, .reg vf] s (s.setResultAndFlag x (a - b) (noBorrowFlag a b)) := by
  refine ⟨fun hx => ?result, ?flag, s.setResultAndFlag_onlyChanges x _ _⟩
  case result => rw [State.setResultAndFlag_reg_of_ne hx, toNat_byte_sub]
  case flag => rw [State.setResultAndFlag_vf, noBorrowFlag, flagByte_decide]

/-! ## The obligations -/

/-- Settles O14: both write `V[x]` alone, the sum modulo 256. -/
theorem immediateToRegister : Obligations.ImmediateToRegister := by
  refine fun x nn => ⟨decodeOfEncode (.ldImm x nn) rfl, decodeOfEncode (.addImm x nn) rfl, fun s => ⟨?ld, ?add⟩⟩
  case ld => exact ⟨_, rfl, s.reg_setReg_same x nn, s.setReg_onlyChanges x nn⟩
  case add =>
    refine ⟨_, rfl, ?_, s.setReg_onlyChanges x _⟩
    rw [State.reg_setReg_same, BitVec.toNat_add]

/-- Settles O15: each writes `V[x]` alone, and bit `k` of the result is the operation on the operands' bits `k`. -/
theorem copyAndBitwise : Obligations.CopyAndBitwise := by
  refine fun x y => ⟨decodeOfEncode (.ldReg x y) rfl, decodeOfEncode (.orReg x y) rfl, decodeOfEncode (.andReg x y) rfl,
    decodeOfEncode (.xorReg x y) rfl, fun s => ⟨?ld, ?or, ?and, ?xor⟩⟩
  case ld => exact ⟨_, rfl, s.reg_setReg_same x _, s.setReg_onlyChanges x _⟩
  case or => exact ⟨_, rfl, s.setReg_onlyChanges x _, fun k _ => by rw [State.reg_setReg_same, BitVec.getLsbD_or]⟩
  case and => exact ⟨_, rfl, s.setReg_onlyChanges x _, fun k _ => by rw [State.reg_setReg_same, BitVec.getLsbD_and]⟩
  case xor => exact ⟨_, rfl, s.setReg_onlyChanges x _, fun k _ => by rw [State.reg_setReg_same, BitVec.getLsbD_xor]⟩

/-- Settles O16: the sum stands in `V[x]` unless the carry, written last, replaces it. -/
theorem addWithCarry : Obligations.AddWithCarry := by
  refine fun x y => ⟨decodeOfEncode (.addReg x y) rfl, fun s =>
    ⟨_, rfl, fun hx => ?result, ?flag, s.setResultAndFlag_onlyChanges x _ _⟩⟩
  case result => rw [State.setResultAndFlag_reg_of_ne hx, BitVec.toNat_add]
  case flag => rw [State.setResultAndFlag_vf, carryFlag, flagByte_decide]

/-- Settles O17: the subtraction `V[x] - V[y]` with its flag. -/
theorem subWithNoBorrow : Obligations.SubWithNoBorrow := fun x y =>
  ⟨decodeOfEncode (.sub x y) rfl, fun s => ⟨_, rfl, s.difference_and_noBorrow x _ _⟩⟩

/-- Settles O18: the subtraction `V[y] - V[x]` with its flag. -/
theorem subnWithNoBorrow : Obligations.SubnWithNoBorrow := fun x y =>
  ⟨decodeOfEncode (.subn x y) rfl, fun s => ⟨_, rfl, s.difference_and_noBorrow x _ _⟩⟩

/-- Settles O19: the bit shifted out of `V[x]` is its lowest (SHR) or its highest (SHL), and is written last. -/
theorem shifts : Obligations.Shifts := by
  refine fun x y => ⟨decodeOfEncode (.shr x y) rfl, decodeOfEncode (.shl x y) rfl, fun s =>
    ⟨⟨_, rfl, fun hx => ?right, ?lowBit, s.setResultAndFlag_onlyChanges x _ _⟩,
      ⟨_, rfl, fun hx => ?left, ?highBit, s.setResultAndFlag_onlyChanges x _ _⟩⟩⟩
  case right => rw [State.setResultAndFlag_reg_of_ne hx, State.shiftOperand_eq, toNat_byte_shiftRight_one]
  case lowBit => rw [State.setResultAndFlag_vf, lowBitFlag_toNat, State.shiftOperand_eq]
  case left => rw [State.setResultAndFlag_reg_of_ne hx, State.shiftOperand_eq, toNat_byte_shiftLeft_one]
  case highBit => rw [State.setResultAndFlag_vf, highBitFlag_toNat, State.shiftOperand_eq]

end Sys2Proof.Machine
end

section
/-!
SUPPORT. Random, index and offset jump (43_random_index.md): the 16-bit sum that ADD I and JP V0 share, and from it, with the frame
of each state update, the obligations of the family.
-/

namespace Sys2Proof.Machine

/-- A register's byte in an address sum counts as its number, and the sum is taken modulo 65536, not 12 bits (43_random_index.md
R142, R143). -/
theorem toNat_add_byte (a : Addr) (b : Byte) : (a + b.zeroExtend 16).toNat = (a.toNat + b.toNat) % 65536 := by
  rw [BitVec.toNat_add, BitVec.toNat_setWidth_of_le (by decide)]

/-! ## The obligations -/

/-- Settles O20: the mask is written to `V[x]` alone, and its bit `k` is the conjunction of the draw's and the immediate's. -/
theorem rndMasksTheDraw : Obligations.RndMasksTheDraw := fun x nn =>
  ⟨decodeOfEncode (.rnd x nn) rfl, fun s =>
    ⟨_, rfl, s.setReg_onlyChanges x _, fun k _ => by rw [State.reg_setReg_same, BitVec.getLsbD_and]⟩⟩

/-- Settles O21: the target is the 16-bit sum of `V0` and the literal zero-extended. -/
theorem offsetJumpAddsV0 : Obligations.OffsetJumpAddsV0 := by
  refine fun nnn => ⟨decodeOfEncode (.jpV0 nnn) rfl, fun s => ⟨_, rfl, ?target, (s.setPc_frame _).toOnlyChanges⟩⟩
  case target => rw [State.setPc_pc, BitVec.add_comm, toNat_add_byte, zext16_toNat, Nat.add_comm]

/-- Settles O22: both write the index alone, the literal zero-extended or the 16-bit sum with `V[x]`. -/
theorem setAndAddToIndex : Obligations.SetAndAddToIndex := by
  refine ⟨fun nnn => ⟨decodeOfEncode (.ldI nnn) rfl, fun s => ?ld⟩, fun x => ⟨decodeOfEncode (.addI x) rfl, fun s => ?add⟩⟩
  case ld => exact ⟨_, rfl, zext16_toNat nnn, (s.setI_frame _).toOnlyChanges⟩
  case add => exact ⟨_, rfl, toNat_add_byte s.i (s.reg x), (s.setI_frame _).toOnlyChanges⟩

end Sys2Proof.Machine
end

section
/-!
SUPPORT. The display instructions (44_display.md): the extent of a sprite lies inside the grid, so the laws of the blitter say what
DRW draws; from them, with the present and the frame of each state update, the obligations of the family.
-/

namespace Sys2Proof.Machine

variable (s : State) (x y : RegIx) (n : Nibble)

/-! ## The present and the flag -/

/-- A present whose draw succeeds changes the log of presents alone (44_display.md R152, 60_exceptions.md R207). -/
theorem State.present_onlyChanges_of_drawSucceeds {s : State} {site : PresentSite} (h : DrawSucceeds s site) :
    OnlyChanges [.presents] s (s.present site) := by
  have hfault : (s.present site).fault = s.fault := by rw [State.present_fault, if_neg h]
  constructor <;> simp [hfault]

theorem flagByte_eq_zero_or_one (c : Bool) : flagByte c = 0#8 ∨ flagByte c = 1#8 := by
  cases c
  · exact .inl rfl
  · exact .inr rfl

theorem flagByte_eq_one_iff {c : Bool} : flagByte c = 1#8 ↔ c = true := by
  cases c <;> decide

/-! ## The sprite's extent -/

/-- The columns past the right edge are clipped. -/
theorem State.spriteColumn_add_clippedCols_le : s.spriteColumn x + clippedCols (s.spriteColumn x) ≤ 64 := by
  have : s.spriteColumn x < 64 := Nat.mod_lt _ (by decide)
  simp only [clippedCols, Config.fbWidth]
  omega

/-- The rows past the bottom edge are clipped. -/
theorem State.spriteRow_add_clippedRows_le : s.spriteRow y + clippedRows n (s.spriteRow y) ≤ 32 := by
  have : s.spriteRow y < 32 := Nat.mod_lt _ (by decide)
  simp only [clippedRows, Config.fbHeight]
  omega

/-- The four bounds of the extent as one condition. -/
theorem spriteBit_eq (m : Memory) (base x0 y0 rows cols u v : Nat) :
    spriteBit m base x0 y0 rows cols u v =
      (decide (x0 ≤ u ∧ u < x0 + cols ∧ y0 ≤ v ∧ v < y0 + rows) && (m.read (base + (v - y0))).getLsbD (7 - (u - x0))) := by
  simp only [spriteBit, Bool.decide_and, Bool.and_assoc, Bool.and_left_comm]

/-! ## What DRW draws -/

/-- The state DRW presents: the sprite drawn, the collision in `VF` (44_display.md R151). -/
def State.drawn : State := (s.setFb (s.sprite x y n).fb).setReg vf (flagByte (s.sprite x y n).collision)

theorem State.drawn_frame : Frame [.fb, .reg vf] s (s.drawn x y n) := (s.setFb_frame _).trans (State.setReg_frame _ _ _)

/-- Each cell is XORed with the sprite's bit there. -/
theorem State.drawn_cell (u v : Nat) :
    Framebuffer.cell (s.drawn x y n).fb u v =
      (Framebuffer.cell s.fb u v ^^ spriteBit s.mem s.i.toNat (s.spriteColumn x) (s.spriteRow y)
        (clippedRows n (s.spriteRow y)) (clippedCols (s.spriteColumn x)) u v) :=
  drawRows_cell _ _ (s.spriteColumn_add_clippedCols_le x) (s.spriteRow_add_clippedRows_le y n) u v

theorem State.drawn_reg_vf : (s.drawn x y n).reg vf = flagByte (s.sprite x y n).collision := State.reg_setReg_same _ _ _

/-- `VF` is 1 exactly if a set cell lay under a one bit; the drawing starts without a collision. -/
theorem State.drawn_reg_vf_eq_one_iff :
    (s.drawn x y n).reg vf = 1#8 ↔ ∃ r c, r < clippedRows n (s.spriteRow y) ∧ c < clippedCols (s.spriteColumn x) ∧
      (s.mem.read (s.i.toNat + r)).getLsbD (7 - c) = true ∧
      Framebuffer.cell s.fb (s.spriteColumn x + c) (s.spriteRow y + r) = true := by
  rw [State.drawn_reg_vf, flagByte_eq_one_iff, State.sprite,
    drawRows_collision _ _ (s.spriteColumn_add_clippedCols_le x) (s.spriteRow_add_clippedRows_le y n)]
  simp

variable {s x y n}

/-! ## What CLS and DRW answer -/

theorem exec_cls : exec .cls s = .next ((s.setFb Framebuffer.clear).present .instruction) := rfl

theorem exec_drw_of_le
    (h : clippedRows n (s.spriteRow y) = 0 ∨ s.i.toNat + clippedRows n (s.spriteRow y) ≤ 4096) :
    exec (.drw x y n) s = .next ((s.drawn x y n).present .instruction) :=
  State.rangeChecked_ok _ _ _ h

theorem exec_drw_of_lt (hrows : 0 < clippedRows n (s.spriteRow y))
    (h : 4096 < s.i.toNat + clippedRows n (s.spriteRow y)) :
    exec (.drw x y n) s =
      .next (s.raise (.memoryOutOfBounds (encode (.drw x y n)) s.fetchAddr (max s.i.toNat 4096))) :=
  State.rangeChecked_bad _ _ _ hrows h

/-! ## The obligations -/

/-- Settles O23: CLS is the clear framebuffer, then a present, each framed. -/
theorem clsClearsAndPresents : Obligations.ClsClearsAndPresents := by
  refine ⟨rfl, fun s hdraw => ⟨_, exec_cls, fun u v _ _ => ?cell, ?presents, ?frame⟩⟩
  case cell => rw [State.present_fb, State.setFb_fb, Framebuffer.cell_clear]
  case presents => rw [State.present_presents, State.present_fb, State.setFb_presents]
  case frame => exact (s.setFb_frame _).toOnlyChanges.trans (State.present_onlyChanges_of_drawSucceeds hdraw)

/-- Settles O24: DRW by the two outcomes of its range check; where it draws, the state drawn, then a present, each framed. -/
theorem drwXorsCollidesClips : Obligations.DrwXorsCollidesClips := by
  refine fun x y n => ⟨decodeOfEncode (.drw x y n) rfl, ?_⟩
  rintro s _ _ _ _ rfl rfl rfl rfl
  refine ⟨fun hrange hdraw => ?draws, fun a hpc hrows hrange => ?faults⟩
  case draws =>
    have hdrawn : DrawSucceeds (s.drawn x y n) .instruction := hdraw
    refine ⟨_, exec_drw_of_le hrange, fun u v _ _ => ?cell, ?flag, ?collision, ?presents, ?frame⟩
    case cell => rw [State.present_fb, State.drawn_cell, spriteBit_eq]; rfl
    case flag => rw [State.present_reg, State.drawn_reg_vf]; exact flagByte_eq_zero_or_one _
    case collision => rw [State.present_reg]; exact s.drawn_reg_vf_eq_one_iff x y n
    case presents => rw [State.present_presents, State.present_fb]; rfl
    case frame => exact (s.drawn_frame x y n).toOnlyChanges.trans (State.present_onlyChanges_of_drawSucceeds hdrawn)
  case faults =>
    rw [exec_drw_of_lt hrows hrange, State.fetchAddr_of_pc hpc]
    rfl

end Sys2Proof.Machine
end

section
/-!
SUPPORT. The keypad and timer instructions (45_keypad_timers.md): what the two skips and LD Vx, K answer in each of their two cases,
and from it, with the frame of each state update, the obligations of the family.
-/

namespace Sys2Proof.Machine

variable {s : State} {x : RegIx}

/-! ## What SKP, SKNP and LD Vx, K answer -/

theorem exec_skp_of_le (hkey : (s.reg x).toNat ≤ 0xF) : exec (.skp x) s = .next (s.skipIf (s.keyDown (s.reg x))) :=
  if_neg (Nat.not_lt.mpr hkey)

theorem exec_skp_of_lt (hkey : 0xF < (s.reg x).toNat) :
    exec (.skp x) s = .next (s.raise (.invalidRegister (encode (.skp x)) s.fetchAddr (s.reg x))) := if_pos hkey

theorem exec_sknp_of_le (hkey : (s.reg x).toNat ≤ 0xF) : exec (.sknp x) s = .next (s.skipIf (!s.keyDown (s.reg x))) :=
  if_neg (Nat.not_lt.mpr hkey)

theorem exec_sknp_of_lt (hkey : 0xF < (s.reg x).toNat) :
    exec (.sknp x) s = .next (s.raise (.invalidRegister (encode (.sknp x)) s.fetchAddr (s.reg x))) := if_pos hkey

/-- Without a pending key LD Vx, K steps `PC` back to the address it was fetched from. -/
theorem exec_ldVxK_of_none (hpending : s.input.pendingKey = none) : exec (.ldVxK x) s = .next (s.setPc s.fetchAddr) := by
  simp only [exec, execLdVxK, hpending, State.fetchAddr]

theorem exec_ldVxK_of_some {k : Nibble} (hpending : s.input.pendingKey = some k) :
    exec (.ldVxK x) s = .next (s.setReg x (k.zeroExtend 8)) := by
  simp only [exec, execLdVxK, hpending]

/-- Where `skipIf` on a negated condition leaves `PC`: the two outcomes change places. -/
theorem State.skipIf_not_pc (s : State) (c : Bool) : (s.skipIf (!c)).pc = if c then s.pc else s.pc + 2#16 := by
  cases c <;> rfl

/-! ## The obligations -/

/-- Settles O26: up to `0xF` both are `skipIf`, on the keypad's answer and on its negation; above, both raise. -/
theorem skipsOnKey : Obligations.SkipsOnKey := by
  refine fun x => ⟨decodeOfEncode (.skp x) rfl, decodeOfEncode (.sknp x) rfl, fun s hkey => ⟨?skp, ?sknp⟩,
    fun s a hpc hkey => ⟨?skpFault, ?sknpFault⟩⟩
  case skp => exact ⟨_, exec_skp_of_le hkey, (s.skipIf_frame _).toOnlyChanges, s.skipIf_pc _⟩
  case sknp => exact ⟨_, exec_sknp_of_le hkey, (s.skipIf_frame _).toOnlyChanges, s.skipIf_not_pc _⟩
  case skpFault => rw [exec_skp_of_lt hkey, State.fetchAddr_of_pc hpc]; rfl
  case sknpFault => rw [exec_sknp_of_lt hkey, State.fetchAddr_of_pc hpc]; rfl

/-- Settles O27: by the two cases of LD Vx, K. -/
theorem waitForKey : Obligations.WaitForKey := by
  refine fun x => ⟨decodeOfEncode (.ldVxK x) rfl, fun s a hpc hpending => ?waits, fun s k hpending => ?takes⟩
  case waits =>
    exact ⟨_, exec_ldVxK_of_none hpending, State.fetchAddr_of_pc hpc, (s.setPc_frame _).toOnlyChanges⟩
  case takes =>
    refine ⟨_, exec_ldVxK_of_some hpending, ?_, s.setReg_onlyChanges x _⟩
    rw [State.reg_setReg_same, BitVec.toNat_setWidth_of_le (by decide)]

/-- Settles O28: each move writes its destination alone, with what its source holds. -/
theorem timerMoves : Obligations.TimerMoves := by
  refine fun x => ⟨decodeOfEncode (.ldVxDt x) rfl, decodeOfEncode (.ldDtVx x) rfl, decodeOfEncode (.ldStVx x) rfl,
    fun s => ⟨?readDelay, ?setDelay, ?setSound⟩⟩
  case readDelay => exact ⟨_, rfl, s.reg_setReg_same x _, s.setReg_onlyChanges x _⟩
  case setDelay => exact ⟨_, rfl, rfl, (s.setDt_frame _).toOnlyChanges⟩
  case setSound => exact ⟨_, rfl, rfl, (s.setSt_frame _).toOnlyChanges⟩

end Sys2Proof.Machine
end

section
/-!
SUPPORT. Memory transfer and sprite address (46_memory_transfer.md): what LD B and the two block transfers answer on either side
of their range check and what the bytes they store read back as, and from it, with the frame of each state update, the obligations
of the family.
-/

namespace Sys2Proof.Machine

variable {s : State} {x : RegIx}

/-! ## What LD B, LD [I], Vx and LD Vx, [I] answer -/

theorem exec_ldB_of_lt (hrange : s.i.toNat + 2 < 4096) :
    exec (.ldB x) s = .next (s.setMem (s.mem.writeBytes s.i.toNat (bcdDigits (s.reg x)))) :=
  State.rangeChecked_ok _ _ _ (.inr hrange)

theorem exec_ldB_of_le (hrange : 4096 ≤ s.i.toNat + 2) :
    exec (.ldB x) s = .next (s.raise (.memoryOutOfBounds (encode (.ldB x)) s.fetchAddr (max s.i.toNat 4096))) :=
  State.rangeChecked_bad _ _ _ (by decide) (Nat.lt_succ_of_le hrange)

theorem exec_ldMemVx_of_lt (hrange : s.i.toNat + x.toNat < 4096) :
    exec (.ldMemVx x) s = .next (s.setMem (s.mem.writeBytes s.i.toNat (s.firstRegs (regCount x)))) :=
  State.rangeChecked_ok _ _ _ (.inr hrange)

theorem exec_ldMemVx_of_le (hrange : 4096 ≤ s.i.toNat + x.toNat) :
    exec (.ldMemVx x) s =
      .next (s.raise (.memoryOutOfBounds (encode (.ldMemVx x)) s.fetchAddr (max s.i.toNat 4096))) :=
  State.rangeChecked_bad _ _ _ (Nat.succ_pos _) (Nat.lt_succ_of_le hrange)

theorem exec_ldVxMem_of_lt (hrange : s.i.toNat + x.toNat < 4096) :
    exec (.ldVxMem x) s = .next (s.loadRegs s.i.toNat (regCount x)) := by
  rw [← State.loadRegs_setI s s.i.toNat (regCount x)]
  exact State.rangeChecked_ok _ _ _ (.inr hrange)

theorem exec_ldVxMem_of_le (hrange : 4096 ≤ s.i.toNat + x.toNat) :
    exec (.ldVxMem x) s =
      .next (s.raise (.memoryOutOfBounds (encode (.ldVxMem x)) s.fetchAddr (max s.i.toNat 4096))) :=
  State.rangeChecked_bad _ _ _ (Nat.succ_pos _) (Nat.lt_succ_of_le hrange)

/-! ## The registers stored and loaded -/

/-- The byte at `I + z` of the registers stored is `V[z]` (46_memory_transfer.md R171). -/
theorem State.read_writeBytes_firstRegs (hwf : s.mem.wf = true) (hrange : s.i.toNat + x.toNat < 4096) {z : RegIx}
    (hz : z.toNat ≤ x.toNat) :
    (s.mem.writeBytes s.i.toNat (s.firstRegs (regCount x))).read (s.i.toNat + z.toNat) = s.reg z := by
  have hlen : z.toNat < (s.firstRegs (regCount x)).length := by
    rw [State.firstRegs_length]
    exact Nat.lt_succ_of_le hz
  have hmem : s.i.toNat + z.toNat < Config.memSize := Nat.lt_of_le_of_lt (Nat.add_le_add_left hz _) hrange
  rw [Memory.read_writeBytes_inside hwf hlen hmem, State.firstRegs_get, BitVec.ofNat_toNat, BitVec.setWidth_eq]

theorem regCount_le (x : RegIx) : regCount x ≤ 16 := x.isLt

/-- Up to `V[x]` a load takes its register's byte (46_memory_transfer.md R172). -/
theorem State.loadRegs_reg_of_le (s : State) (base : Nat) {z : RegIx} (hz : z.toNat ≤ x.toNat) :
    (s.loadRegs base (regCount x)).reg z = s.mem.read (base + z.toNat) :=
  (s.loadRegs_reg base z (regCount_le x)).trans (if_pos (Nat.lt_succ_of_le hz))

/-- Above `V[x]` a load leaves the registers. -/
theorem State.loadRegs_reg_of_lt (s : State) (base : Nat) {z : RegIx} (hz : x.toNat < z.toNat) :
    (s.loadRegs base (regCount x)).reg z = s.reg z :=
  (s.loadRegs_reg base z (regCount_le x)).trans (if_neg (Nat.not_lt.mpr hz))

theorem firstRegParts_subset {m n : Nat} (h : m ≤ n) : firstRegParts m ⊆ firstRegParts n :=
  List.map_subset _ (List.range_subset.mpr h)

/-! ## The digits stored and the glyph's address -/

@[simp] theorem bcdDigits_length (v : Byte) : (bcdDigits v).length = 3 := rfl

/-- The decimal digits as numbers: each fits a byte (46_memory_transfer.md R170). -/
theorem bcdDigits_toNat (v : Byte) :
    (bcdDigits v)[0].toNat = v.toNat / 100 ∧ (bcdDigits v)[1].toNat = v.toNat / 10 % 10 ∧
      (bcdDigits v)[2].toNat = v.toNat % 10 := by
  have hv := v.isLt
  exact ⟨Nat.mod_eq_of_lt (by omega), Nat.mod_eq_of_lt (by omega), Nat.mod_eq_of_lt (by omega)⟩

/-- The byte at `I + k` of the digits stored is the `k`-th digit. -/
theorem State.read_writeBytes_bcdDigits (hwf : s.mem.wf = true) (hrange : s.i.toNat + 2 < 4096) (v : Byte) {k : Nat}
    (hk : k < 3) : (s.mem.writeBytes s.i.toNat (bcdDigits v)).read (s.i.toNat + k) = (bcdDigits v)[k] :=
  Memory.read_writeBytes_inside hwf hk (Nat.lt_of_le_of_lt (Nat.add_le_add_left (Nat.le_of_lt_succ hk) _) hrange)

/-- The glyph addresses fit 16 bits, and the mask `0xF` is the remainder by 16 (46_memory_transfer.md R173). -/
theorem glyphAddr_toNat (v : Byte) : (glyphAddr v).toNat = 0x050 + 5 * (v.toNat % 16) := by
  have hmask : (v &&& 0x0F#8).toNat = v.toNat % 16 := Nat.and_two_pow_sub_one_eq_mod v.toNat 4
  have hlt : v.toNat % 16 < 16 := Nat.mod_lt _ (by decide)
  rw [glyphAddr, hmask, BitVec.toNat_ofNat, Config.fontBase, Config.glyphBytes]
  exact Nat.mod_eq_of_lt (by omega)

/-! ## The obligations -/

/-- Settles O30: by the two outcomes of the range check; where it stores, by what the bytes written read back as. -/
theorem storeRegisters : Obligations.StoreRegisters := by
  refine fun x => ⟨decodeOfEncode (.ldMemVx x) rfl, fun s hwf hrange => ?stores, fun s a hpc hrange => ?faults⟩
  case stores =>
    refine ⟨_, exec_ldMemVx_of_lt hrange, fun z hz => State.read_writeBytes_firstRegs hwf hrange hz, fun a ha => ?_,
      (s.setMem_frame _).toOnlyChanges⟩
    exact Memory.read_writeBytes_outside _ _ _ (by rw [State.firstRegs_length]; exact ha)
  case faults => rw [exec_ldMemVx_of_le hrange, State.fetchAddr_of_pc hpc]; rfl

/-- Settles O31: by the two outcomes of the range check; where it loads, the loop writes among the 16 registers. -/
theorem loadRegisters : Obligations.LoadRegisters := by
  refine fun x => ⟨decodeOfEncode (.ldVxMem x) rfl, fun s hrange => ?loads, fun s a hpc hrange => ?faults⟩
  case loads =>
    refine ⟨_, exec_ldVxMem_of_lt hrange, fun z hz => s.loadRegs_reg_of_le _ hz, fun z hz => s.loadRegs_reg_of_lt _ hz, ?_⟩
    rw [List.map_map]
    exact ((s.loadRegs_frame _ _).mono (firstRegParts_subset (regCount_le x))).toOnlyChanges
  case faults => rw [exec_ldVxMem_of_le hrange, State.fetchAddr_of_pc hpc]; rfl

/-- Settles O32: the load reads the bytes the store wrote, from the same `I`. -/
theorem loadAfterStoreRestores : Obligations.LoadAfterStoreRestores := by
  intro x s t u hwf hrange hstore hmem hi
  rw [exec_ldMemVx_of_lt hrange] at hstore
  cases hstore
  rw [State.setMem_mem] at hmem
  rw [State.setMem_i] at hi
  refine ⟨_, exec_ldVxMem_of_lt (hi ▸ hrange), ?index, fun z hz => ?register⟩
  case index => rw [State.loadRegs_eq]; exact hi
  case register => rw [State.loadRegs_reg_of_le u _ hz, hmem, hi, State.read_writeBytes_firstRegs hwf hrange hz]

/-- Settles O29: by the two outcomes of the range check; where it stores, the `k`-th byte written is the `k`-th digit. -/
theorem bcdStoresDigits : Obligations.BcdStoresDigits := by
  refine fun x => ⟨decodeOfEncode (.ldB x) rfl, fun s hwf hrange => ?stores, fun s a hpc hrange => ?faults⟩
  case stores =>
    obtain ⟨hundreds, tens, ones⟩ := bcdDigits_toNat (s.reg x)
    have hread {k : Nat} (hk : k < 3) := congrArg BitVec.toNat (State.read_writeBytes_bcdDigits hwf hrange (s.reg x) hk)
    exact ⟨_, exec_ldB_of_lt hrange, (hread (by decide)).trans hundreds, (hread (by decide)).trans tens,
      (hread (by decide)).trans ones, fun a ha => Memory.read_writeBytes_outside _ _ _ ha, (s.setMem_frame _).toOnlyChanges⟩
  case faults => rw [exec_ldB_of_le hrange, State.fetchAddr_of_pc hpc]; rfl

/-- Settles O33: the index alone is written, with the address of the glyph. -/
theorem glyphAddress : Obligations.GlyphAddress := fun x =>
  ⟨decodeOfEncode (.ldF x) rfl, fun s => ⟨_, rfl, glyphAddr_toNat (s.reg x), (s.setI_frame _).toOnlyChanges⟩⟩

end Sys2Proof.Machine
end

section
/-!
SUPPORT. The faults of the program (60_exceptions.md R201, R203): which instruction raises which fault and when, that it writes
nothing but the record, and that a step reports the word and the address it fetched. After a fault there is no step (R202).
-/

namespace Sys2Proof.Machine

variable {s t : State} {i : Instr} {f : FaultRecord}

/-! ## The faults of the instructions -/

/-- The instruction raises this fault of the program in state `s`, with its own word and address (60_exceptions.md R201). -/
inductive RaisesFault (s : State) : Instr → FaultRecord → Prop where
  | call {nnn : Lit12} (hfull : 16 ≤ s.stack.length) :
      RaisesFault s (.call nnn) (.stackOverflow (encode (.call nnn)) s.fetchAddr)
  | ret (hempty : s.stack = []) : RaisesFault s .ret (.stackUnderflow (encode .ret) s.fetchAddr)
  | skp {x : RegIx} (hkey : 0xF < (s.reg x).toNat) :
      RaisesFault s (.skp x) (.invalidRegister (encode (.skp x)) s.fetchAddr (s.reg x))
  | sknp {x : RegIx} (hkey : 0xF < (s.reg x).toNat) :
      RaisesFault s (.sknp x) (.invalidRegister (encode (.sknp x)) s.fetchAddr (s.reg x))
  | drw {x y : RegIx} {n : Nibble} (hrows : 0 < clippedRows n (s.spriteRow y))
      (hrange : 4096 < s.i.toNat + clippedRows n (s.spriteRow y)) :
      RaisesFault s (.drw x y n) (.memoryOutOfBounds (encode (.drw x y n)) s.fetchAddr (max s.i.toNat 4096))
  | ldB {x : RegIx} (hrange : 4096 ≤ s.i.toNat + 2) :
      RaisesFault s (.ldB x) (.memoryOutOfBounds (encode (.ldB x)) s.fetchAddr (max s.i.toNat 4096))
  | ldMemVx {x : RegIx} (hrange : 4096 ≤ s.i.toNat + x.toNat) :
      RaisesFault s (.ldMemVx x) (.memoryOutOfBounds (encode (.ldMemVx x)) s.fetchAddr (max s.i.toNat 4096))
  | ldVxMem {x : RegIx} (hrange : 4096 ≤ s.i.toNat + x.toNat) :
      RaisesFault s (.ldVxMem x) (.memoryOutOfBounds (encode (.ldVxMem x)) s.fetchAddr (max s.i.toNat 4096))

/-- The fault is entered, and nothing else happens (60_exceptions.md R203). -/
theorem RaisesFault.exec_eq (h : RaisesFault s i f) : exec i s = .next (s.raise f) := by
  cases h with
  | call hfull => exact exec_call_of_le hfull
  | ret hempty => exact exec_ret_of_nil hempty
  | skp hkey => exact exec_skp_of_lt hkey
  | sknp hkey => exact exec_sknp_of_lt hkey
  | drw hrows hrange => exact exec_drw_of_lt hrows hrange
  | ldB hrange => exact exec_ldB_of_le hrange
  | ldMemVx hrange => exact exec_ldMemVx_of_le hrange
  | ldVxMem hrange => exact exec_ldVxMem_of_le hrange

/-- The report of such a fault (60_exceptions.md R202). -/
theorem RaisesFault.report (h : RaisesFault s i f) :
    f.reportedPc = some s.fetchAddr ∧ f.reportedWord = some (encode i) := by
  cases h <;> exact ⟨rfl, rfl⟩

/-- A present leaves the fault record, or its draw fails (60_exceptions.md R207). -/
theorem State.present_fault_cases (s : State) (site : PresentSite) :
    (s.present site).fault = s.fault ∨ (site ∈ s.input.failing ∧ (s.present site).fault = some .backendError) := by
  rw [State.present_fault]
  split
  · exact .inr ⟨‹_›, rfl⟩
  · exact .inl rfl

/-- An instruction that raises no fault of the program leaves the fault record, or is one of the two that present, with a draw
that fails. -/
theorem exec_fault_of_not_raises (hr : ¬∃ f, RaisesFault s i f) (h : exec i s = .next t) :
    t.fault = s.fault ∨
      ((i = .cls ∨ ∃ x y n, i = .drw x y n) ∧ .instruction ∈ s.input.failing ∧ t.fault = some .backendError) := by
  cases i
  case cls =>
    cases h
    exact ((s.setFb Framebuffer.clear).present_fault_cases _).imp_right fun hfails => ⟨.inl rfl, hfails⟩
  case drw x y n =>
    have hrange : clippedRows n (s.spriteRow y) = 0 ∨ s.i.toNat + clippedRows n (s.spriteRow y) ≤ 4096 := by
      by_contra hbad
      obtain ⟨hrows, hlt⟩ := not_or.mp hbad
      exact hr ⟨_, .drw (Nat.pos_of_ne_zero hrows) (Nat.lt_of_not_le hlt)⟩
    rw [exec_drw_of_le hrange] at h
    cases h
    exact ((s.drawn x y n).present_fault_cases _).imp_right fun hfails => ⟨.inr ⟨x, y, n, rfl⟩, hfails⟩
  case call =>
    rw [exec_call_of_lt (Nat.lt_of_not_le fun hfull => hr ⟨_, .call hfull⟩)] at h
    cases h
    exact .inl rfl
  case ret =>
    obtain hempty | ⟨below, top, hstack⟩ := List.eq_nil_or_concat' s.stack
    · exact absurd ⟨_, .ret hempty⟩ hr
    · rw [exec_ret_of_append hstack] at h
      cases h
      exact .inl rfl
  case skp =>
    rw [exec_skp_of_le (Nat.le_of_not_lt fun hkey => hr ⟨_, .skp hkey⟩)] at h
    cases h
    exact .inl (s.skipIf_fault _)
  case sknp =>
    rw [exec_sknp_of_le (Nat.le_of_not_lt fun hkey => hr ⟨_, .sknp hkey⟩)] at h
    cases h
    exact .inl (s.skipIf_fault _)
  case ldB =>
    rw [exec_ldB_of_lt (Nat.lt_of_not_le fun hrange => hr ⟨_, .ldB hrange⟩)] at h
    cases h
    exact .inl rfl
  case ldMemVx =>
    rw [exec_ldMemVx_of_lt (Nat.lt_of_not_le fun hrange => hr ⟨_, .ldMemVx hrange⟩)] at h
    cases h
    exact .inl rfl
  case ldVxMem =>
    rw [exec_ldVxMem_of_lt (Nat.lt_of_not_le fun hrange => hr ⟨_, .ldVxMem hrange⟩), State.loadRegs_eq] at h
    cases h
    exact .inl rfl
  all_goals exact .inl ((exec_frame h).fault (by simp [mayWrite]))

/-- Whichever instruction leaves a fault record: it is its own fault of the program, entered with nothing else changed, or
BackendError of one of the two instructions that present (60_exceptions.md R203, R207). -/
theorem exec_fault_cases (hs : s.fault = none) (h : exec i s = .next t) (hf : t.fault = some f) :
    (RaisesFault s i f ∧ t = s.raise f) ∨
      ((i = .cls ∨ ∃ x y n, i = .drw x y n) ∧ .instruction ∈ s.input.failing ∧ f = .backendError) := by
  by_cases hr : ∃ g, RaisesFault s i g
  · obtain ⟨g, hg⟩ := hr
    rw [hg.exec_eq] at h
    cases h
    cases hf
    exact .inl ⟨hg, rfl⟩
  · obtain hkept | ⟨hpresents, hfails, hbackend⟩ := exec_fault_of_not_raises hr h
    · exact absurd (hf.symm.trans (hkept.trans hs)) (Option.some_ne_none f)
    · exact .inr ⟨hpresents, hfails, Option.some.inj (hf.symm.trans hbackend)⟩

/-! ## The fault of a step -/

/-- A present enters no fault of the program. -/
theorem State.present_fault_ne {site : PresentSite} (hne : f ≠ .backendError) (h : s.fault ≠ some f) :
    (s.present site).fault ≠ some f := by
  obtain e | ⟨-, e⟩ := s.present_fault_cases site <;> rw [e]
  · exact h
  · exact fun e => hne (Option.some.inj e).symm

/-- The rest of a cycle enters no fault of the program: all its phases can enter is a failing draw or poll (60_exceptions.md
R207). -/
theorem State.fault_of_finishCycle (hf : s.finishCycle.fault = some f) (hne : f ≠ .backendError) : s.fault = some f := by
  by_contra h
  refine s.finishCycle_induction (P := fun u => u.fault ≠ some f) h (fun u hu => ?disarm)
    (fun u g hu => u.applySignals_induction (P := fun u => u.fault ≠ some f) g hu (fun _ hv => hv) (fun v hv => ?pause)
      (fun v hv => ?toggle) (fun _ hv => hv) (fun v hv => State.present_fault_ne hne hv))
    (fun _ _ e => hne (Option.some.inj e).symm) (fun _ hu => hu) hf
  case disarm =>
    unfold State.disarmStep
    split
    · rw [State.unlessFaulted_disarm_fault]; exact State.present_fault_ne hne hu
    · exact hu
  case pause =>
    unfold State.pauseSignal
    split
    · exact State.present_fault_ne hne hv
    · exact hv
  case toggle =>
    unfold State.toggleStepModeSignal
    split
    · exact State.present_fault_ne hne hv
    · exact hv

/-! ## The obligations -/

/-- Settles O50: by what each instruction's fault is; BackendError is excluded. -/
theorem faultsArePrecise : Obligations.FaultsArePrecise := by
  intro i s t f hs h hf hne
  obtain ⟨-, rfl⟩ | ⟨-, -, hbackend⟩ := exec_fault_cases hs h hf
  · rfl
  · exact absurd hbackend hne

/-- Settles O51: the faults of the program one by one, and the failing draw of CLS and DRW. -/
theorem faultsByInstruction : Obligations.FaultsByInstruction := by
  intro i s t a f hpc hs h hf
  obtain rfl : s.fetchAddr = a := State.fetchAddr_of_pc hpc
  obtain ⟨hr, -⟩ | hdraw := exec_fault_cases hs h hf
  · cases hr with
    | call hfull => exact .inl ⟨_, rfl, hfull, rfl⟩
    | ret hempty => exact .inr (.inl ⟨rfl, hempty, rfl⟩)
    | skp hkey => exact .inr (.inr (.inl ⟨_, .inl rfl, hkey, rfl⟩))
    | sknp hkey => exact .inr (.inr (.inl ⟨_, .inr rfl, hkey, rfl⟩))
    | drw _ hrange =>
      have hclip := hrange.trans_le (Nat.add_le_add_left (Nat.min_le_left _ _) _)
      exact .inr (.inr (.inr (.inl ⟨_, _, _, rfl, hclip, rfl⟩)))
    | ldB hrange => exact .inr (.inr (.inr (.inr (.inl ⟨_, rfl, hrange, rfl⟩))))
    | ldMemVx hrange => exact .inr (.inr (.inr (.inr (.inr (.inl ⟨_, .inl rfl, hrange, rfl⟩)))))
    | ldVxMem hrange => exact .inr (.inr (.inr (.inr (.inr (.inl ⟨_, .inr rfl, hrange, rfl⟩)))))
  · exact .inr (.inr (.inr (.inr (.inr (.inr hdraw)))))

/-- Settles O52: a fault of the program is that of the fetch, of the decoder or of the instruction fetched. -/
theorem reportNamesTheOffender : Obligations.ReportNamesTheOffender := by
  intro s t f h hf hne
  obtain ⟨hrun, ⟨-, rfl⟩ | ⟨-, hpc, rfl⟩ | ⟨⟨-, -, hpc⟩, -, rfl⟩ | ⟨⟨-, -, hpc⟩, i, u, hi, hu, rfl⟩⟩ := step_cases h
  · have hnone : s.tickPhase.fault = none := s.tickPhase_fault.trans hrun.2
    exact absurd ((State.fault_of_finishCycle hf hne).symm.trans hnone) (Option.some_ne_none f)
  · cases hf
    exact ⟨rfl, (if_neg (Nat.not_lt.mpr hpc)).symm⟩
  · cases hf
    exact ⟨rfl, (if_pos hpc).symm⟩
  · obtain ⟨hr, -⟩ | ⟨-, -, hbackend⟩ :=
      exec_fault_cases (s.atExecute_fault.trans hrun.2) hu (State.fault_of_finishCycle hf hne)
    · rw [if_pos hpc, ← (encodeOfDecode _ _ hi).1, ← s.atExecute_fetchAddr]
      exact hr.report
    · exact absurd hbackend hne

/-- A cycle has a next state, on each of its ways (70_reset_and_hazards.md R245). -/
theorem runCycle_answers_next (s : State) : ∃ t, runCycle s = .next t := by
  cases hgate : s.gateOpen with
  | false => exact ⟨_, runCycle_closed hgate⟩
  | true =>
    obtain hpc | hpc := Nat.lt_or_ge s.pc.toNat 0xFFE
    · rw [runCycle_fetched hgate hpc]
      cases decode s.nextWord with
      | error => exact ⟨_, rfl⟩
      | ok i =>
        obtain ⟨u, hu⟩ := everyInstructionAnswersNext i s.atExecute
        exact ⟨_, congrArg afterExec hu⟩
    · exact ⟨_, runCycle_out_of_bounds hgate hpc⟩

/-- Settles O37: `quit` is asked first, then the fault record, and else a cycle runs. -/
theorem stoppedMachineStaysStopped : Obligations.StoppedMachineStaysStopped := by
  refine ⟨fun s hquit => ?quit, fun s f hquit hfault => ?fault, fun s hrun => ?running⟩
  case quit => simp [step, runOrStop, hquit]
  case fault => simp [step, runOrStop, hquit, hfault]
  case running => rw [step_running hrun]; exact runCycle_answers_next s

end Sys2Proof.Machine
end

section
/-!
SUPPORT. What the rest of a cycle may change, and with it the timers over a step: they are the tick phase's unless the instruction
loads one or RESET is applied (60_exceptions.md R209).
-/

namespace Sys2Proof.Machine

variable {s t u : State}

/-! ## The frame of the rest of the cycle -/

theorem Frame.trans_self {ps : List Part} (h : Frame ps s t) (k : Frame ps t u) : Frame ps s u := (h.trans k).mono (by simp)

theorem State.unlessFaulted_frame {ps : List Part} {k : State → State} (hk : Frame ps s (k s)) :
    Frame ps s (s.unlessFaulted k) := by
  obtain ⟨-, e⟩ | ⟨-, e⟩ := s.unlessFaulted_cases k
  · rw [e]; exact Frame.refl ps s
  · rw [e]; exact hk

theorem State.onSignal_frame {ps : List Part} {d : Bool} {k : State → State} (hk : Frame ps s (k s)) :
    Frame ps s (s.onSignal d k) := by
  obtain ⟨e, -⟩ | ⟨e, -⟩ := s.onSignal_cases d k
  · rw [e]; exact Frame.refl ps s
  · rw [e]; exact hk

@[simp] theorem State.onSignal_false (s : State) (k : State → State) : s.onSignal false k = s := by
  obtain ⟨e, -⟩ | ⟨-, hd, -⟩ := s.onSignal_cases false k
  · exact e
  · cases hd

theorem State.disarm_frame (s : State) : Frame [.stepArmed] s s.disarm := ⟨by constructor <;> simp [State.reg], fun _ => rfl⟩

theorem State.disarmStep_frame (s : State) : Frame [.presents, .fault, .stepArmed] s s.disarmStep := by
  unfold State.disarmStep
  split
  · exact (s.present_frame _).trans (State.unlessFaulted_frame (State.disarm_frame _))
  · exact Frame.refl _ s

theorem State.pauseSignal_frame (s : State) : Frame [.paused, .presents, .fault] s s.pauseSignal :=
  ⟨by unfold State.pauseSignal; split <;> constructor <;> simp [State.reg], by simp⟩

theorem State.toggleStepModeSignal_frame (s : State) : Frame [.stepMode, .presents, .fault] s s.toggleStepModeSignal :=
  ⟨by unfold State.toggleStepModeSignal; split <;> constructor <;> simp [State.reg], by simp⟩

theorem State.advanceStepSignal_frame (s : State) : Frame [.stepArmed] s s.advanceStepSignal :=
  ⟨by constructor <;> simp, fun _ => rfl⟩

theorem State.nextInput_frame (s : State) : Frame [.draws] s s.nextInput := ⟨by constructor <;> simp, fun _ => rfl⟩

theorem State.quit_frame (s : State) : Frame [.quit] s { s with quit := true } :=
  ⟨by constructor <;> simp [State.reg], fun _ => rfl⟩

/-- The poll does not apply RESET: it fails, or the signal is not delivered, or QUIT ends it before (60_exceptions.md R215). -/
def NoReset (s : State) : Prop := ∀ g, s.input.poll = .signals g → g.reset = false ∨ g.quit = true

/-- The run-state, the fault record, the presents and the draws. -/
def controlParts : List Part := [.paused, .stepMode, .stepArmed, .quit, .fault, .presents, .draws]

theorem State.applySignals_frame {g : Signals} (hg : g.reset = false ∨ g.quit = true) :
    Frame controlParts s (s.applySignals g) := by
  unfold State.applySignals
  split
  · exact s.quit_frame.mono (by simp [controlParts])
  · rw [hg.resolve_right ‹_›, State.onSignal_false]
    exact (((State.onSignal_frame s.pauseSignal_frame).trans
      (State.onSignal_frame (State.toggleStepModeSignal_frame _))).trans
      (State.onSignal_frame (State.advanceStepSignal_frame _))).mono (by simp [controlParts])

theorem State.pollPhase_frame (hs : NoReset s) : Frame controlParts s s.pollPhase := by
  unfold State.pollPhase
  split
  · exact State.applySignals_frame (hs _ ‹_›)
  · exact (s.raise_frame _).mono (by simp [controlParts])

/-- Without RESET the rest of the cycle changes the run-state, the fault record, the presents and the draws alone. -/
theorem State.finishCycle_frame (hs : NoReset s) : Frame controlParts s s.finishCycle := by
  have hdisarm : Frame controlParts s (s.unlessFaulted State.disarmStep) :=
    (State.unlessFaulted_frame s.disarmStep_frame).mono (by simp [controlParts])
  have hinput : NoReset (s.unlessFaulted State.disarmStep) := by
    obtain ⟨-, e⟩ | ⟨-, e⟩ := s.unlessFaulted_cases State.disarmStep <;> rw [e]
    · exact hs
    · rwa [NoReset, State.disarmStep_input]
  exact (hdisarm.trans_self (State.unlessFaulted_frame (State.pollPhase_frame hinput))).trans_self
    ((State.unlessFaulted_frame (State.nextInput_frame _)).mono (by simp [controlParts]))

/-! ## The timers over a step -/

/-- No instruction uses the draws of its cycle up, so the poll after it answers what it would have answered before. -/
theorem exec_input {i : Instr} (h : exec i s = .next t) : t.input = s.input := by
  obtain ⟨-, -, -, -, -, -, hinputs, hcycle⟩ := noInstructionWritesRunState i s t h
  rw [State.input, hinputs, hcycle, State.input]

/-- Neither the advance of `PC` nor the rest of the cycle reaches a timer. -/
theorem timer_notMem_pc_controlParts : ∀ p ∈ [Part.dt, Part.st], p ∉ [Part.pc] ++ controlParts := by decide

/-- Without RESET a step changes a timer after the tick only where the instruction it fetched may write it. -/
theorem step_timer_frame (h : step s = .next t) (hs : NoReset s) :
    ∃ ps, Frame ps s.tickPhase t ∧
      ∀ p ∈ [Part.dt, Part.st], p ∈ ps → ∃ i, decode s.nextWord = .ok i ∧ p ∈ mayWrite i := by
  have hinput : NoReset s.tickPhase := by rwa [NoReset, State.tickPhase_input]
  obtain ⟨-, ⟨-, rfl⟩ | ⟨-, -, rfl⟩ | ⟨-, -, rfl⟩ | ⟨-, i, u, hi, hu, rfl⟩⟩ := step_cases h
  · exact ⟨_, State.finishCycle_frame hinput, by simp [controlParts]⟩
  · exact ⟨_, State.raise_frame _ _, by simp⟩
  · exact ⟨_, (s.tickPhase.setPc_frame _).trans (State.raise_frame _ _), by simp⟩
  · have hafter : NoReset u := by rwa [NoReset, exec_input hu, State.atExecute_input]
    refine ⟨_, (s.tickPhase.setPc_frame _).trans ((exec_frame hu).trans (State.finishCycle_frame hafter)),
      fun p hp hmem => ?_⟩
    have hnot := timer_notMem_pc_controlParts p hp
    simp only [List.mem_append, not_or] at hmem hnot
    exact ⟨i, hi, by tauto⟩

/-- The tick on numbers: one less where the gate is open and the tick is drawn, never below 0 (60_exceptions.md R209). -/
theorem toNat_ite_countDown (c d : Bool) (b : Byte) :
    (if c && d then countDown b else b).toNat = b.toNat - (if c = true ∧ d = true then 1 else 0) := by
  cases c <;> cases d <;> simp [countDown_toNat]

/-- Settles O38: a timer that the instruction does not load is the tick phase's. -/
theorem timersOverAStep : Obligations.TimersOverAStep := by
  intro s t h hs
  obtain ⟨ps, hframe, hps⟩ := step_timer_frame h hs
  obtain ⟨hdt, hst⟩ := s.tickPhase_timers
  refine ⟨fun hload => ?delay, fun hload => ?sound⟩
  case delay =>
    have hkeeps : Part.dt ∉ ps := fun hmem => by
      obtain ⟨i, hi, hw⟩ := hps _ (by simp) hmem
      obtain ⟨x, rfl⟩ := dt_mem_mayWrite.mp hw
      exact hload x hi
    rw [hframe.dt hkeeps, hdt, toNat_ite_countDown]
  case sound =>
    have hkeeps : Part.st ∉ ps := fun hmem => by
      obtain ⟨i, hi, hw⟩ := hps _ (by simp) hmem
      obtain ⟨x, rfl⟩ := st_mem_mayWrite.mp hw
      exact hload x hi
    rw [hframe.st hkeeps, hst, toNat_ite_countDown]

end Sys2Proof.Machine
end

section
/-!
SUPPORT. Cycle steps 4 and 5 (60_exceptions.md R215 to R220): what the step disarm and each signal leave where their draws succeed,
the state they lead to before RESET, and where a draw or the poll fails (R207).
-/

namespace Sys2Proof.Machine

variable {s : State} {g : Signals} {d : Bool}

/-! ## The disarm and single signals, where the draw succeeds -/

/-- After the step disarm (60_exceptions.md R219). -/
def State.disarmed (s : State) : State :=
  { s with stepArmed := s.stepArmed && !s.stepMode,
           presents := (if s.stepMode = true ∧ s.stepArmed = true then [s.fb] else []) ++ s.presents }

/-- After PAUSE, delivered or not (60_exceptions.md R216). -/
def State.pauseToggled (s : State) (d : Bool) : State :=
  { s with paused := s.paused ^^ (d && s.debugEnabled),
           presents := (if d = true ∧ s.debugEnabled = true then [s.fb] else []) ++ s.presents }

/-- After TOGGLE_STEP_MODE, delivered or not (60_exceptions.md R217). -/
def State.stepModeToggled (s : State) (d : Bool) : State :=
  { s with stepMode := s.stepMode ^^ (d && s.debugEnabled),
           presents := (if d = true ∧ s.debugEnabled = true then [s.fb] else []) ++ s.presents }

/-- After ADVANCE_STEP, delivered or not (60_exceptions.md R218). -/
def State.armedIf (s : State) (d : Bool) : State := { s with stepArmed := s.stepArmed || d }

theorem State.disarmed_frame (s : State) : Frame [.stepArmed, .presents] s s.disarmed :=
  ⟨by constructor <;> simp [State.disarmed, State.reg], fun _ => rfl⟩

theorem State.pauseToggled_frame (s : State) (d : Bool) : Frame [.paused, .presents] s (s.pauseToggled d) :=
  ⟨by constructor <;> simp [State.pauseToggled, State.reg], fun _ => rfl⟩

theorem State.stepModeToggled_frame (s : State) (d : Bool) : Frame [.stepMode, .presents] s (s.stepModeToggled d) :=
  ⟨by constructor <;> simp [State.stepModeToggled, State.reg], fun _ => rfl⟩

theorem State.armedIf_frame (s : State) (d : Bool) : Frame [.stepArmed] s (s.armedIf d) :=
  ⟨by constructor <;> simp [State.armedIf, State.reg], fun _ => rfl⟩

theorem State.pauseToggled_of_not (h : ¬(d = true ∧ s.debugEnabled = true)) : s.pauseToggled d = s := by
  have hoff : (d && s.debugEnabled) = false := by simpa using h
  rw [State.pauseToggled, hoff, if_neg h, Bool.xor_false]
  rfl

theorem State.stepModeToggled_of_not (h : ¬(d = true ∧ s.debugEnabled = true)) : s.stepModeToggled d = s := by
  have hoff : (d && s.debugEnabled) = false := by simpa using h
  rw [State.stepModeToggled, hoff, if_neg h, Bool.xor_false]
  rfl

theorem State.onSignal_true (hf : s.fault = none) (k : State → State) : s.onSignal true k = k s :=
  State.unlessFaulted_none _ _ hf

theorem State.onSignal_pause (hf : s.fault = none) (hd : s.debugEnabled = true → d = true → DrawSucceeds s .pause) :
    s.onSignal d State.pauseSignal = s.pauseToggled d := by
  cases d with
  | false => rw [State.onSignal_false, State.pauseToggled_of_not (by simp)]
  | true =>
    rw [State.onSignal_true hf, State.pauseSignal]
    by_cases hdebug : s.debugEnabled = true
    · have hdraw : DrawSucceeds { s with paused := !s.paused } .pause := hd hdebug rfl
      rw [if_pos hdebug, State.present_succeeds _ hdraw]
      simp [State.pauseToggled, hdebug]
    · rw [if_neg hdebug, State.pauseToggled_of_not (by simpa using hdebug)]

theorem State.onSignal_toggleStepMode (hf : s.fault = none)
    (hd : s.debugEnabled = true → d = true → DrawSucceeds s .toggleStepMode) :
    s.onSignal d State.toggleStepModeSignal = s.stepModeToggled d := by
  cases d with
  | false => rw [State.onSignal_false, State.stepModeToggled_of_not (by simp)]
  | true =>
    rw [State.onSignal_true hf, State.toggleStepModeSignal]
    by_cases hdebug : s.debugEnabled = true
    · have hdraw : DrawSucceeds { s with stepMode := !s.stepMode } .toggleStepMode := hd hdebug rfl
      rw [if_pos hdebug, State.present_succeeds _ hdraw]
      simp [State.stepModeToggled, hdebug]
    · rw [if_neg hdebug, State.stepModeToggled_of_not (by simpa using hdebug)]

theorem State.onSignal_advanceStep (hf : s.fault = none) : s.onSignal d State.advanceStepSignal = s.armedIf d := by
  cases d with
  | false => simp [State.armedIf]
  | true => rw [State.onSignal_true hf, State.advanceStepSignal, State.armedIf, Bool.or_true]

/-! ## Single signals, where the draw fails -/

theorem State.onSignal_pause_fails (hf : s.fault = none) (hdebug : s.debugEnabled = true) (hd : .pause ∈ s.input.failing) :
    s.onSignal true State.pauseSignal =
      { s with paused := !s.paused, presents := s.fb :: s.presents, fault := some .backendError } := by
  rw [State.onSignal_true hf, State.pauseSignal, if_pos hdebug]
  exact State.present_fails _ hd

theorem State.onSignal_toggleStepMode_fails (hf : s.fault = none) (hdebug : s.debugEnabled = true)
    (hd : .toggleStepMode ∈ s.input.failing) :
    s.onSignal true State.toggleStepModeSignal =
      { s with stepMode := !s.stepMode, presents := s.fb :: s.presents, fault := some .backendError } := by
  rw [State.onSignal_true hf, State.toggleStepModeSignal, if_pos hdebug]
  exact State.present_fails _ hd

/-! ## RESET -/

theorem State.resetTransition_presents (s : State) : s.resetTransition.presents = s.resetTransition.fb :: s.presents := by
  rw [State.resetTransition, State.present_presents, State.present_fb]

/-- RESET faults only where its own draw fails (60_exceptions.md R207). -/
theorem State.resetTransition_fault (s : State) :
    s.resetTransition.fault = if .reset ∈ s.input.failing then some .backendError else s.fault :=
  State.present_fault _ _

/-- What RESET clears, and the memory it keeps (70_reset_and_hazards.md R243). -/
theorem State.resetTransition_clears (s : State) :
    (∀ x, s.resetTransition.reg x = 0#8) ∧ s.resetTransition.pc = 0x200#16 ∧ s.resetTransition.i = 0#16 ∧
      s.resetTransition.stack = [] ∧ s.resetTransition.dt = 0#8 ∧ s.resetTransition.st = 0#8 ∧
      (∀ x y, x < 64 → y < 32 → Framebuffer.cell s.resetTransition.fb x y = false) ∧
      ∀ a, s.resetTransition.mem.read a = s.mem.read a := by
  simp [memoryAfterReset_eq]

/-! ## The signals in order -/

/-- After the step disarm and the signals up to RESET, where their draws succeed and QUIT is not delivered (60_exceptions.md
R215). -/
def State.signalled (s : State) (g : Signals) : State :=
  ((s.disarmed.pauseToggled g.pause).stepModeToggled g.toggleStepMode).armedIf g.advanceStep

theorem State.signalled_frame (s : State) (g : Signals) :
    Frame [.paused, .stepMode, .stepArmed, .presents] s (s.signalled g) :=
  (((s.disarmed_frame.trans (State.pauseToggled_frame _ _)).trans (State.stepModeToggled_frame _ _)).trans
    (State.armedIf_frame _ _)).mono (by simp)

@[simp] theorem State.signalled_paused (s : State) (g : Signals) :
    (s.signalled g).paused = (s.paused ^^ (g.pause && s.debugEnabled)) := rfl
@[simp] theorem State.signalled_stepMode (s : State) (g : Signals) :
    (s.signalled g).stepMode = (s.stepMode ^^ (g.toggleStepMode && s.debugEnabled)) := rfl
@[simp] theorem State.signalled_stepArmed (s : State) (g : Signals) :
    (s.signalled g).stepArmed = ((s.stepArmed && !s.stepMode) || g.advanceStep) := rfl
@[simp] theorem State.signalled_quit (s : State) (g : Signals) : (s.signalled g).quit = s.quit := rfl
@[simp] theorem State.signalled_debugEnabled (s : State) (g : Signals) : (s.signalled g).debugEnabled = s.debugEnabled := rfl
@[simp] theorem State.signalled_fault (s : State) (g : Signals) : (s.signalled g).fault = s.fault := rfl
@[simp] theorem State.signalled_inputs (s : State) (g : Signals) : (s.signalled g).inputs = s.inputs := rfl
@[simp] theorem State.signalled_cycle (s : State) (g : Signals) : (s.signalled g).cycle = s.cycle := rfl

theorem State.signalled_presents (s : State) (g : Signals) :
    (s.signalled g).presents = (if g.toggleStepMode = true ∧ s.debugEnabled = true then [s.fb] else []) ++
      (if g.pause = true ∧ s.debugEnabled = true then [s.fb] else []) ++ s.disarmed.presents :=
  (List.append_assoc _ _ _).symm

theorem State.applySignals_of_not_quit (hq : g.quit = false) (s : State) :
    s.applySignals g = (((s.onSignal g.pause State.pauseSignal).onSignal g.toggleStepMode State.toggleStepModeSignal).onSignal
      g.advanceStep State.advanceStepSignal).onSignal g.reset State.resetTransition :=
  if_neg (by simp [hq])

theorem State.applySignals_of_quit (hq : g.quit = true) (s : State) : s.applySignals g = { s with quit := true } := if_pos hq

section

variable (hf : s.fault = none) (hp : s.input.poll = .signals g)
  (hdisarm : s.stepMode = true → s.stepArmed = true → DrawSucceeds s .stepDisarm)

include hf hp hdisarm

theorem State.finishCycle_disarmed : s.finishCycle = (s.disarmed.applySignals g).unlessFaulted State.nextInput :=
  s.finishCycle_signals hf hdisarm hp

theorem State.finishCycle_quit (hq : g.quit = true) : s.finishCycle = State.nextInput { s.disarmed with quit := true } := by
  rw [State.finishCycle_disarmed hf hp hdisarm, State.applySignals_of_quit hq]
  exact State.unlessFaulted_none _ _ hf

variable (hq : g.quit = false) (hpause : s.debugEnabled = true → g.pause = true → DrawSucceeds s .pause)

include hq hpause

/-- As far as TOGGLE_STEP_MODE. -/
theorem State.finishCycle_pauseToggled : s.finishCycle =
    ((((s.disarmed.pauseToggled g.pause).onSignal g.toggleStepMode State.toggleStepModeSignal).onSignal
      g.advanceStep State.advanceStepSignal).onSignal g.reset State.resetTransition).unlessFaulted State.nextInput := by
  rw [State.finishCycle_disarmed hf hp hdisarm, State.applySignals_of_not_quit hq,
    State.onSignal_pause (s := s.disarmed) hf hpause]

variable (htoggle : s.debugEnabled = true → g.toggleStepMode = true → DrawSucceeds s .toggleStepMode)

include htoggle

/-- As far as RESET. -/
theorem State.finishCycle_signalled :
    s.finishCycle = ((s.signalled g).onSignal g.reset State.resetTransition).unlessFaulted State.nextInput := by
  rw [State.finishCycle_pauseToggled hf hp hdisarm hq hpause,
    State.onSignal_toggleStepMode (s := s.disarmed.pauseToggled g.pause) hf htoggle,
    State.onSignal_advanceStep (s := (s.disarmed.pauseToggled g.pause).stepModeToggled g.toggleStepMode) hf, State.signalled]

theorem State.finishCycle_no_reset (hr : g.reset = false) : s.finishCycle = (s.signalled g).nextInput := by
  rw [State.finishCycle_signalled hf hp hdisarm hq hpause htoggle, hr, State.onSignal_false]
  exact State.unlessFaulted_none _ _ hf

theorem State.finishCycle_reset (hr : g.reset = true) :
    s.finishCycle = (s.signalled g).resetTransition.unlessFaulted State.nextInput := by
  rw [State.finishCycle_signalled hf hp hdisarm hq hpause htoggle, hr,
    State.onSignal_true (s := s.signalled g) hf]

end

/-! ## The obligations -/

/-- Settles O40: by QUIT, and without it by RESET, each case an equation for the rest of the cycle. -/
theorem disarmThenSignalsInOrder : Obligations.DisarmThenSignalsInOrder := by
  intro s g hf hp hdisarm hpause htoggle hreset
  cases hq : g.quit with
  | true =>
    have hframe := ((s.disarmed_frame.trans (State.quit_frame _)).trans (State.nextInput_frame _)).toOnlyChanges
    exact ⟨_, State.finishCycle_quit hf hp hdisarm hq, hf, rfl, rfl,
      fun _ => ⟨rfl, rfl, rfl, hframe.mono (by simp)⟩, by simp⟩
  | false =>
    cases hr : g.reset with
    | false =>
      have hframe := ((s.signalled_frame g).trans (State.nextInput_frame _)).toOnlyChanges
      rw [State.finishCycle_no_reset hf hp hdisarm hq (hpause hq) (htoggle hq) hr]
      refine ⟨_, rfl, hf, by simp, by simp, by simp, fun _ => ⟨by simp, by simp, by simp, by simp, by simp, ?presents,
        fun _ => hframe.mono (by simp), by simp⟩⟩
      case presents => simp [State.signalled_presents, State.disarmed]
    | true =>
      have hfault : (s.signalled g).resetTransition.fault = none := by
        rw [State.resetTransition_fault]
        exact (if_neg (hreset hq hr)).trans hf
      rw [State.finishCycle_reset hf hp hdisarm hq (hpause hq) (htoggle hq) hr, State.unlessFaulted_none _ _ hfault]
      refine ⟨_, rfl, hfault, by simp, by simp, by simp, fun _ => ⟨by simp, by simp, by simp, by simp, by simp, ?presents,
        by simp, fun _ => (s.signalled g).resetTransition_clears⟩⟩
      case presents => simp [State.resetTransition_presents, State.signalled_presents, State.disarmed]

/-- Settles O43: the places of a cycle in order, each where the draws before it succeed. -/
theorem backendFailureEndsTheRun : Obligations.BackendFailureEndsTheRun := by
  refine ⟨fun s f hf => s.finishCycle_faulted hf, fun s hd => ?cls, ?drw, fun s hf hm ha hd =>
    s.finishCycle_disarm_fails hf hm ha hd, ?polled⟩
  case cls =>
    refine ⟨_, exec_cls, (State.present_fault _ _).trans (if_pos hd), fun u v _ _ => ?cell, ?presents, ?frame⟩
    case cell => rw [State.present_fb, State.setFb_fb, Framebuffer.cell_clear]
    case presents => rw [State.present_presents, State.present_fb, State.setFb_presents]
    case frame => exact ((s.setFb_frame _).trans (State.present_frame _ _)).toOnlyChanges
  case drw =>
    rintro s x y n _ _ _ _ hd rfl rfl rfl rfl hrange
    refine ⟨_, exec_drw_of_le hrange, (State.present_fault _ _).trans (if_pos hd), fun u v _ _ => ?cell, ?flag, ?collision,
      ?presents, ?frame⟩
    case cell => rw [State.present_fb, State.drawn_cell, spriteBit_eq]; rfl
    case flag => rw [State.present_reg, State.drawn_reg_vf]; exact flagByte_eq_zero_or_one _
    case collision => rw [State.present_reg]; exact s.drawn_reg_vf_eq_one_iff x y n
    case presents => rw [State.present_presents, State.present_fb]; rfl
    case frame => exact ((s.drawn_frame x y n).trans (State.present_frame _ _)).toOnlyChanges
  case polled =>
    rintro s hf hdisarm _ _ rfl rfl
    refine ⟨fun hp => s.finishCycle_poll_fails hf hdisarm hp, fun g hp hq =>
      ⟨fun hdebug hpause hd => ?pause, fun hdebug hpause htoggle hd => ?toggleStepMode, fun hpause htoggle hr hd => ?reset⟩⟩
    case pause =>
      rw [State.finishCycle_disarmed hf hp hdisarm, State.applySignals_of_not_quit hq, hpause,
        State.onSignal_pause_fails (s := s.disarmed) hf hdebug hd]
      rfl
    case toggleStepMode =>
      rw [State.finishCycle_pauseToggled hf hp hdisarm hq fun _ => hpause, htoggle,
        State.onSignal_toggleStepMode_fails (s := s.disarmed.pauseToggled g.pause) hf hdebug hd]
      simp [State.onSignal, State.unlessFaulted, State.pauseToggled, State.disarmed, hdebug]
    case reset =>
      have hfault : (s.signalled g).resetTransition.fault = some .backendError := by
        rw [State.resetTransition_fault]
        exact if_pos hd
      rw [State.finishCycle_reset hf hp hdisarm hq hpause htoggle hr, State.unlessFaulted_some _ _ hfault]
      obtain ⟨hreg, hpc, hi, hstack, hdt, hst, hfb, hmem⟩ := (s.signalled g).resetTransition_clears
      refine ⟨_, rfl, hfault, hreg, hi, hpc, hstack, hdt, hst, hfb, hmem, by simp, by simp, by simp, by simp, by simp,
        by simp, by simp, ?presents⟩
      case presents => rw [State.resetTransition_presents, State.signalled_presents]; rfl

end Sys2Proof.Machine
end

section
/-!
SUPPORT. A step armed in step mode (60_exceptions.md R218, R219): the cycle it opens the gate for closes it again.
-/

namespace Sys2Proof.Machine

variable {s : State} {g : Signals} {d : Bool}

/-- A state in which no instruction runs in step mode until a step is armed (70_reset_and_hazards.md R246). -/
def AwaitsStep (s : State) : Prop := s.stepMode = true ∧ s.stepArmed = false

theorem AwaitsStep.gateOpen_eq_false (h : AwaitsStep s) : s.gateOpen = false := by
  obtain ⟨hmode, harmed⟩ := h
  simp [State.gateOpen, hmode, harmed]

theorem State.onSignal_induction {P : State → Prop} {k : State → State} (h : P s) (hk : ∀ u, P u → P (k u)) :
    P (s.onSignal d k) := by
  obtain ⟨e, -⟩ | ⟨e, -⟩ := s.onSignal_cases d k <;> rw [e]
  · exact h
  · exact hk s h

/-- Signals that neither arm nor toggle step mode leave the machine waiting for a step (60_exceptions.md R217, R218). -/
theorem AwaitsStep.applySignals (h : AwaitsStep s) (hadvance : g.advanceStep = false) (htoggle : g.toggleStepMode = false) :
    AwaitsStep (s.applySignals g) := by
  cases hq : g.quit with
  | true => rw [State.applySignals_of_quit hq]; exact h
  | false =>
    rw [State.applySignals_of_not_quit hq, hadvance, htoggle, State.onSignal_false, State.onSignal_false]
    exact State.onSignal_induction (State.onSignal_induction h fun u hu => by simpa [AwaitsStep] using hu)
      fun u hu => by simpa [AwaitsStep] using hu

/-- The rest of a cycle that ends without a fault disarms, and nothing arms again (60_exceptions.md R219). -/
theorem State.finishCycle_closes_gate (hmode : s.stepMode = true) (harmed : s.stepArmed = true)
    (hp : s.input.poll = .signals g) (hadvance : g.advanceStep = false) (htoggle : g.toggleStepMode = false)
    (hend : s.finishCycle.fault = none) : s.finishCycle.gateOpen = false := by
  have hf : s.fault = none := by
    cases hf : s.fault with
    | none => rfl
    | some f => rw [s.finishCycle_faulted hf, hf] at hend; cases hend
  have hdisarm : DrawSucceeds s .stepDisarm := fun hd => by
    rw [s.finishCycle_disarm_fails hf hmode harmed hd] at hend; cases hend
  have hawaits : AwaitsStep s.disarmed := ⟨hmode, by simp [State.disarmed, hmode]⟩
  apply AwaitsStep.gateOpen_eq_false
  rw [State.finishCycle_disarmed hf hp fun _ _ => hdisarm]
  obtain ⟨-, e⟩ | ⟨-, e⟩ := (s.disarmed.applySignals g).unlessFaulted_cases State.nextInput <;> rw [e] <;>
    exact hawaits.applySignals hadvance htoggle

/-- With the gate closed there is no tick (60_exceptions.md R209; log entry 12). -/
theorem State.tickPhase_closed (h : s.gateOpen = false) : s.tickPhase = s := if_neg (by simp [Params.tickWhileGated, h])

/-- Settles O44: an armed gate is closed only by the pause; either way the rest of the cycle disarms. -/
theorem armedStepRunsOnce : Obligations.ArmedStepRunsOnce := by
  intro s t g hmode harmed hp hadvance htoggle h hend
  have hgate : s.gateOpen = !s.paused := by simp [State.gateOpen, harmed]
  obtain ⟨-, ⟨hclosed, rfl⟩ | ⟨-, -, rfl⟩ | ⟨-, -, rfl⟩ | ⟨⟨-, hopen, -⟩, i, u, hi, hu, rfl⟩⟩ := step_cases h
  · rw [State.tickPhase_closed hclosed] at hend ⊢
    refine ⟨State.finishCycle_closes_gate hmode harmed hp hadvance htoggle hend, fun hpaused => ?_, fun _ => rfl⟩
    simp [hgate, hpaused] at hclosed
  · cases hend
  · cases hend
  · obtain ⟨-, hmode', harmed', -⟩ := noInstructionWritesRunState _ _ _ hu
    rw [State.atExecute_stepMode, hmode] at hmode'
    rw [State.atExecute_stepArmed, harmed] at harmed'
    have hp' : u.input.poll = .signals g := by rw [exec_input hu, State.atExecute_input, hp]
    refine ⟨State.finishCycle_closes_gate hmode' harmed' hp' hadvance htoggle hend, fun _ => ⟨i, u, hi, hu, rfl⟩,
      fun hpaused => ?_⟩
    simp [hgate, hpaused] at hopen

end Sys2Proof.Machine
end

section
/-!
SUPPORT. The gate and what it lets through (70_reset_and_hazards.md R245, R246, R252): the cycle with the gate closed, the instruction
of a cycle that fetches, and the cycle of an LD Vx, K that waits.
-/

namespace Sys2Proof.Machine

variable {s : State} {i : Instr} {g : Signals}

/-! ## The gate -/

/-- Either of the two ways of closing the gate (70_reset_and_hazards.md R246). -/
theorem State.gateOpen_eq_false (h : s.paused = true ∨ AwaitsStep s) : s.gateOpen = false := by
  obtain hpaused | hawaits := h
  · simp [State.gateOpen, hpaused]
  · exact hawaits.gateOpen_eq_false

/-- A running machine with its gate closed does nothing but the rest of the cycle, whatever tick is drawn (log entry 12). -/
theorem step_closed (hrun : Running s) (hgate : s.gateOpen = false) : step s = .next s.finishCycle := by
  rw [step_running hrun, runCycle_closed hgate, State.tickPhase_closed hgate]

/-- Settles O39: the frame of the rest of the cycle without RESET is that of the step. -/
theorem closedGateHoldsTheMachine : Obligations.ClosedGateHoldsTheMachine := fun _ hrun hclosed =>
  ⟨step_closed hrun (State.gateOpen_eq_false hclosed), fun hs => (State.finishCycle_frame hs).toOnlyChanges⟩

/-- Settles O60: without `debug_enabled` the invariant leaves neither pause nor step mode on. -/
theorem gateOpenWithoutDebug : Obligations.GateOpenWithoutDebug := by
  intro s hs hdebug
  obtain ⟨hpaused, hmode⟩ := hs.debugOff hdebug
  simp [State.gateOpen, hpaused, hmode]

/-! ## The instruction of a cycle -/

theorem step_decoded (hf : Fetches s) (hi : decode s.nextWord = .ok i) : step s = afterExec (exec i s.atExecute) := by
  obtain ⟨hrun, hgate, hpc⟩ := hf
  rw [step_running hrun, runCycle_fetched hgate hpc, hi]

/-- Settles O34: the two bytes at `PC` are the word the cycle fetches. -/
theorem stepRunsDecodedInstruction : Obligations.StepRunsDecodedInstruction := by
  intro s i hf hi
  refine ⟨s.atExecute_frame.toOnlyChanges.mono (by simp), s.atExecute_pc, fun t ht => ?_,
    everyInstructionAnswersNext i s.atExecute⟩
  rw [step_decoded hf hi, ht, afterExec]

/-! ## The wait for a key -/

theorem State.setPc_self (s : State) : s.setPc s.pc = s := rfl

/-- `PC` back at the word undoes its advance, so that the tick alone remains. -/
theorem State.atExecute_setPc (s : State) : s.atExecute.setPc s.pc = s.tickPhase :=
  calc s.atExecute.setPc s.pc = s.tickPhase.setPc s.pc := rfl
    _ = s.tickPhase.setPc s.tickPhase.pc := by rw [State.tickPhase_pc]
    _ = s.tickPhase := State.setPc_self _

/-- With no pending key LD Vx, K leaves of its cycle the tick and the rest of the cycle (70_reset_and_hazards.md R252). -/
theorem step_ldVxK_of_none {x : RegIx} (hf : Fetches s) (hi : decode s.nextWord = .ok (.ldVxK x))
    (hpending : s.input.pendingKey = none) : step s = .next s.tickPhase.finishCycle := by
  rw [step_decoded hf hi, exec_ldVxK_of_none (by rwa [State.atExecute_input]), State.atExecute_fetchAddr,
    State.atExecute_setPc, afterExec]

theorem State.setQuit_frame (s : State) (b : Bool) : Frame [.quit] s { s with quit := b } :=
  ⟨by constructor <;> simp [State.reg], fun _ => rfl⟩

/-- No signal but QUIT. -/
def AtMostQuit (g : Signals) : Prop :=
  g.pause = false ∧ g.toggleStepMode = false ∧ g.advanceStep = false ∧ g.reset = false

/-- Outside step mode nothing is disarmed. -/
theorem State.disarmed_of_not_stepMode (hmode : s.stepMode = false) : s.disarmed = s := by
  have harmed : (s.stepArmed && !s.stepMode) = s.stepArmed := by simp [hmode]
  rw [State.disarmed, harmed, if_neg (by simp [hmode]), List.nil_append]

theorem State.signalled_of_atMostQuit (hmode : s.stepMode = false) (hg : AtMostQuit g) : s.signalled g = s := by
  obtain ⟨hpause, htoggle, hadvance, -⟩ := hg
  rw [State.signalled, State.disarmed_of_not_stepMode hmode, hpause, htoggle, hadvance,
    State.pauseToggled_of_not (by simp), State.stepModeToggled_of_not (by simp)]
  simp [State.armedIf]

/-- Outside step mode a poll of at most QUIT leaves of the rest of the cycle that signal and the end of the cycle. -/
theorem State.finishCycle_of_atMostQuit (hf : s.fault = none) (hmode : s.stepMode = false)
    (hp : s.input.poll = .signals g) (hg : AtMostQuit g) :
    s.finishCycle = State.nextInput { s with quit := s.quit || g.quit } := by
  have hdisarm : s.stepMode = true → s.stepArmed = true → DrawSucceeds s .stepDisarm := by simp [hmode]
  cases hq : g.quit with
  | true => rw [State.finishCycle_quit hf hp hdisarm hq, State.disarmed_of_not_stepMode hmode, Bool.or_true]
  | false =>
    have ⟨hpause, htoggle, _, hreset⟩ := hg
    rw [State.finishCycle_no_reset hf hp hdisarm hq (by simp [hpause]) (by simp [htoggle]) hreset,
      State.signalled_of_atMostQuit hmode hg, Bool.or_false]

/-- Settles O45: the waiting cycle is the tick, QUIT if it was polled, and the end of the cycle. -/
theorem waitForKeyReplays : Obligations.WaitForKeyReplays := by
  intro s x g hf hi hpending hmode hp hreset hpause htoggle hadvance
  obtain ⟨hquit, hfault⟩ := hf.1
  have hstep : step s = .next (State.nextInput { s.tickPhase with quit := s.tickPhase.quit || g.quit }) := by
    rw [step_ldVxK_of_none hf hi hpending, State.finishCycle_of_atMostQuit (s := s.tickPhase) (by simpa using hfault)
      (by simpa using hmode) (by simpa using hp) ⟨hpause, htoggle, hadvance, hreset⟩]
  refine ⟨_, hstep, by simp, by simp [State.nextWord], by simpa using hfault, by simp [hquit], ?frame⟩
  case frame =>
    exact ((s.tickPhase_frame.trans (State.setQuit_frame _ _)).trans (State.nextInput_frame _)).toOnlyChanges.mono (by simp)

end Sys2Proof.Machine
end

section
/-!
SUPPORT. RESET and construction (70_reset_and_hazards.md R240, R241, R243): what each leaves in every part of the state, and that the
invariant of the core holds from the start.
-/

namespace Sys2Proof.Machine

/-! ## RESET -/

/-- Settles O41: RESET keeps the fault record where its own draw succeeds. -/
theorem resetTransitionClearsAllButMemory : Obligations.ResetTransitionClearsAllButMemory := by
  intro s hd
  obtain ⟨hreg, hpc, hi, hstack, hdt, hst, hfb, hmem⟩ := s.resetTransition_clears
  exact ⟨_, rfl, hreg, hi, hpc, hstack, hdt, hst, hfb, s.resetTransition_presents, hmem, by simp, by simp, by simp, by simp,
    by simp, s.resetTransition_fault.trans (if_neg hd)⟩

/-! ## What construction answers -/

section

variable {l : Launch} {rom : List Byte} {t : State}

theorem construct_unreadable (hrom : l.rom = .unreadable) : construct l = .fault (.stopped .romUnreadable) := by
  simp [construct, hrom]

theorem construct_too_large (hrom : l.rom = .bytes rom) (hlen : 3584 < rom.length) :
    construct l = .fault (.stopped (.romTooLarge rom.length)) := by
  simp [construct, hrom, Config.maxRomLen, hlen]

theorem construct_backend_failed (hrom : l.rom = .bytes rom) (hlen : rom.length ≤ 3584) (hready : l.backendReady = false) :
    construct l = .fault (.stopped .backendError) := by
  simp [construct, hrom, Config.maxRomLen, Nat.not_lt.mpr hlen, hready]

theorem construct_accepted (hrom : l.rom = .bytes rom) (hlen : rom.length ≤ 3584) (hready : l.backendReady = true) :
    construct l = .next (State.constructed rom l.debugEnabled l.inputs) := by
  simp [construct, hrom, Config.maxRomLen, Nat.not_lt.mpr hlen, hready]

/-- A state that construction answers is the constructed one: every other launch ends the run (60_exceptions.md R206, R207). -/
theorem construct_next (h : construct l = .next t) : ∃ rom, t = State.constructed rom l.debugEnabled l.inputs := by
  unfold construct at h
  split at h
  · cases h
  · split_ifs at h
    cases h
    exact ⟨_, rfl⟩

end

/-! ## Memory after construction -/

/-- The font is the 80 bytes from `FONT_BASE` up (20_memory.md R52). -/
theorem Params.font_length : Params.font.length = 80 := rfl

theorem initialByte_font {k : Nat} (hk : k < Params.font.length) : initialByte (0x050 + k) = Params.font[k] := by
  simp [initialByte, Config.fontBase, hk]

theorem initialByte_of_outside_font {a : Nat} (ha : a < 0x050 ∨ 0x0A0 ≤ a) : initialByte a = 0#8 := by
  obtain hbelow | habove := ha
  · exact if_pos hbelow
  · have hend : Params.font.length ≤ a - Config.fontBase := by simp only [Params.font_length, Config.fontBase]; omega
    simp [initialByte, List.getElem?_eq_none hend]

section

variable {rom : List Byte} {d : Bool} {inputs : List CycleInput}

theorem State.constructed_mem : (State.constructed rom d inputs).mem = Memory.writeBytes [] 0x200 rom := rfl

theorem State.constructed_read_rom (hlen : rom.length ≤ 3584) {k : Nat} (hk : k < rom.length) :
    (State.constructed rom d inputs).mem.read (0x200 + k) = rom[k] := by
  have hbound : 0x200 + k < 4096 := by omega
  exact Memory.read_writeBytes_inside State.reset_mem_wf hk hbound

/-- Outside the ROM memory reads as with none. -/
theorem State.constructed_read_outside_rom {a : Nat} (ha : a < 0x200 ∨ 0x200 + rom.length ≤ a) :
    (State.constructed rom d inputs).mem.read a = initialByte a :=
  Memory.read_writeBytes_outside [] _ _ ha

@[simp] theorem State.constructed_reg (x : RegIx) : (State.constructed rom d inputs).reg x = 0#8 := by
  simp [State.reg, State.constructed, State.reset]

theorem State.constructed_fb : (State.constructed rom d inputs).fb = Framebuffer.clear := rfl

end

/-- Settles O42: one equation for each outcome; memory is the ROM over what an unwritten memory reads as. -/
theorem constructionOrLoadError : Obligations.ConstructionOrLoadError := by
  refine ⟨rfl, fun _ => construct_unreadable, fun _ _ => construct_too_large, fun _ _ => construct_backend_failed,
    fun l rom hrom hlen hready => ?accepted⟩
  refine ⟨_, construct_accepted hrom hlen hready, State.constructed_reg, rfl, rfl, rfl, rfl, rfl, fun x y _ _ => ?cell, rfl,
    rfl, rfl, rfl, rfl, rfl, rfl, fun k hk => State.constructed_read_rom hlen hk, fun k hk => ?font, fun a ha => ?zero⟩
  case cell => rw [State.constructed_fb, Framebuffer.cell_clear]
  case font =>
    have hbelow : 0x050 + k < 0x200 := by rw [Params.font_length] at hk; omega
    rw [State.constructed_read_outside_rom (.inl hbelow), initialByte_font hk]
  case zero => rw [State.constructed_read_outside_rom (by omega), initialByte_of_outside_font (by omega)]

/-! ## The invariant at the start -/

theorem State.constructed_inv (rom : List Byte) (d : Bool) (inputs : List CycleInput) : Inv (State.constructed rom d inputs) where
  memory := Memory.writeBytes_wf _ _ State.reset_mem_wf
  stackBound := Nat.zero_le _
  returns := List.forall_mem_nil _
  debugOff _ := ⟨rfl, rfl⟩

/-- The machine after reset is one constructed from an empty ROM (70_reset_and_hazards.md R240; log entry 14). -/
theorem State.reset_eq_constructed : State.reset = State.constructed [] false [CycleInput.quiet] := rfl

/-- Settles O59: both are constructed states. -/
theorem invAtStart : Obligations.InvAtStart := by
  refine ⟨State.reset_eq_constructed ▸ State.constructed_inv _ _ _, fun l t h => ?_⟩
  obtain ⟨rom, rfl⟩ := construct_next h
  exact State.constructed_inv _ _ _

end Sys2Proof.Machine
end
